-- ==== Sys2Proof/Config.lean ====
section
/-! DEFINITION. The protocol constants of 00_scope.md R8, one named field each with the spec's value as its
default (93_implementation_defined.md I1, 92_eei_decisions.md D21; assumption log entry 10).
`TICK_WIDTH` and the width given by `FRAME_BITS` are widths of types, in `Sys2Proof/Word.lean`.
No field is a free value: the rules of this spec leave no value the block computes open. -/

namespace Sys2Proof

structure Config where
  /-- `START_GAP`: an interval strictly greater than this (re)starts a frame. -/
  startGap : Nat := 10000
  /-- `PULSE_MIN`: smallest valid data interval, inclusive. -/
  pulseMin : Nat := 60
  /-- `PULSE_ONE`: a valid interval strictly greater than this is a 1. -/
  pulseOne : Nat := 100
  /-- `PULSE_MAX`: largest valid data interval, inclusive. -/
  pulseMax : Nat := 150
  /-- `BIT_COUNT_START`: `bit_count` at frame start, two discard slots before the first data slot. -/
  bitCountStart : Int := -2
  /-- `FRAME_BITS`: data bits per frame. -/
  frameBits : Nat := 40
  /-- `DHT11_T_MAX`, whole degrees Celsius, inclusive. -/
  dht11TMax : Nat := 60
  /-- `DHT11_H_MIN`, whole percent, inclusive. -/
  dht11HMin : Nat := 9
  /-- `DHT11_H_MAX`, whole percent, inclusive. -/
  dht11HMax : Nat := 90
  /-- `DHTXX_H_MAX` in tenths of a percent, inclusive. -/
  dhtxxHMax : Nat := 1100
  /-- `DHTXX_T_MIN` in tenths of a degree, inclusive. -/
  dhtxxTMin : Int := -500
  /-- `DHTXX_T_MAX` in tenths of a degree, inclusive. -/
  dhtxxTMax : Int := 1350
  /-- `SCALE`: tenths in one whole unit (41_reading_interpreter.md R134 multiplies by it). -/
  scale : Nat := 10
  deriving DecidableEq, Repr

/-- The constants of this block. -/
abbrev Config.block : Config := {}

end Sys2Proof
end

