-- ==== Sys2Proof/Word.lean ====
section
/-! DEFINITION. The widths of the block's registers and ports (00_scope.md R9, 10_state.md R20, R21, R40).
Arithmetic on them is `BitVec`'s own: addition and subtraction wrap, as 00_scope.md R12 says of `wrap32`. -/

namespace Sys2Proof

/-- One byte of a frame (20_memory.md R51). -/
abbrev Byte := BitVec 8

/-- A tick, and an interval between two ticks: 32 bits, unsigned, wrapping (R9, TICK_WIDTH of R8). -/
abbrev Tick := BitVec 32

/-- The 40-bit frame and its accumulator (R9, R29). -/
abbrev Frame := BitVec 40

/-- The slot counter `bit_count`: 7 bits, two's complement (R9, R28). -/
abbrev SlotCount := BitVec 7

/-- A temperature (two's complement) or a humidity (unsigned) in tenths: 16 bits (R9, R78). -/
abbrev Tenths := BitVec 16

/-- One cycle's inputs as a number: the 38-bit stimulus word of 30_encoding.md R81. -/
abbrev StimulusWord := BitVec 38

end Sys2Proof
end

