-- ==== Sys2Proof/Syntax.lean ====
section
/-! DEFINITION. The operations of the block, one constructor per row of `spec/opcode_table.json`, the inputs a
cycle samples, the operations one cycle runs, and the stimulus statements of 30_encoding.md R82 and R83. -/

namespace Sys2Proof

/-- The sensor-variant selector (30_encoding.md R76). -/
inductive Variant where
  | auto
  | dht11
  | dhtxx
  /-- Code 0b11, which the block treats as AUTO (R139). -/
  | reserved
  deriving DecidableEq, Repr

/-- The interval classes of the pulse-width discriminator (30_encoding.md R73). -/
inductive IntervalClass where
  | gap
  | bit0
  | bit1
  | bad
  deriving DecidableEq, Repr

/-- What the block samples at a rising edge of `clk` (10_state.md R20, 30_encoding.md R70). -/
structure Inputs where
  variant : Variant := .auto
  rst : Bool := false
  attach : Bool := false
  arm : Bool := false
  edgeValid : Bool := false
  edgeTick : Tick := 0
  deriving DecidableEq, Repr

/-- The operations of the opcode table. An EDGE row carries the tick of its edge; an INTERPRET row works on
the frame in the accumulator; the other rows have no operand ("Operands: none" in R160, R162, R164, R200). -/
inductive Instr where
  | reset
  | detach
  | idle
  | arm
  | edgeStart (tick : Tick)
  | edgeIgnore (tick : Tick)
  | edgeDiscard (tick : Tick)
  | edgeData0 (tick : Tick)
  | edgeData1 (tick : Tick)
  | edgeViolation (tick : Tick)
  | edgeComplete0 (tick : Tick)
  | edgeComplete1 (tick : Tick)
  | interpretAuto
  | interpretDht11
  | interpretDhtxx
  | interpretReserved
  deriving DecidableEq, Repr

/-- The operations of one cycle, in the order of 42_host_operations.md R169: exactly one primary operation
(30_encoding.md R71), then at most one operation on the result register, ARM or an INTERPRET row. -/
structure Cycle where
  primary : Instr
  result : Option Instr
  deriving DecidableEq, Repr

/-- The pre-edge state that chooses the EDGE row (30_encoding.md R72). -/
structure View where
  inFrame : Bool
  bitCount : SlotCount
  lastEdgeTick : Tick
  deriving DecidableEq, Repr

/-- The stimulus statements of 30_encoding.md R82. -/
inductive Stmt where
  | reset
  | attach
  | detach
  | idle
  | arm
  | edge (tick : Tick)
  | armEdge (tick : Tick)
  | variant (v : Variant)
  deriving DecidableEq, Repr

/-- Statements and pseudo-statements (30_encoding.md R82, R83). -/
inductive PStmt where
  | stmt (s : Stmt)
  | gap (d : Tick)
  | bits (w : Frame)
  | frame (tick : Tick) (w : Frame)
  | bitsN (w : Frame) (n : Nat)
  | armGap (d : Tick)
  | idleN (n : Nat)
  deriving DecidableEq, Repr

/-- The levels that persist across statements: `A`, `V` and `T` of R82, with their initial values. -/
structure Levels where
  attach : Bool := false
  variant : Variant := .auto
  tick : Tick := 0
  deriving DecidableEq, Repr

end Sys2Proof
end

