-- ==== Sys2Proof/WellFormed.lean ====
section
/-! DEFINITION. Which cycles and which stimulus statements are well formed: the checks of 30_encoding.md R71
(primary operations and what combines with them), R72 (the EDGE rows' conditions) and R83 (`BITSN`). -/

namespace Sys2Proof

/-- A primary operation: "Every cycle performs exactly one primary operation" (R71). -/
def Instr.isPrimary : Instr → Bool
  | .reset | .detach | .idle => true
  | .edgeStart _ | .edgeIgnore _ | .edgeDiscard _ | .edgeData0 _ | .edgeData1 _ => true
  | .edgeViolation _ | .edgeComplete0 _ | .edgeComplete1 _ => true
  | .arm | .interpretAuto | .interpretDht11 | .interpretDhtxx | .interpretReserved => false

/-- The rows that signal a completed frame (42_host_operations.md R165). -/
def Instr.completes : Instr → Bool
  | .edgeComplete0 _ | .edgeComplete1 _ => true
  | .reset | .detach | .idle | .arm => false
  | .edgeStart _ | .edgeIgnore _ | .edgeDiscard _ | .edgeData0 _ | .edgeData1 _ | .edgeViolation _ => false
  | .interpretAuto | .interpretDht11 | .interpretDhtxx | .interpretReserved => false

/-- The INTERPRET rows. -/
def Instr.isInterpret : Instr → Bool
  | .interpretAuto | .interpretDht11 | .interpretDhtxx | .interpretReserved => true
  | .reset | .detach | .idle | .arm => false
  | .edgeStart _ | .edgeIgnore _ | .edgeDiscard _ | .edgeData0 _ | .edgeData1 _ => false
  | .edgeViolation _ | .edgeComplete0 _ | .edgeComplete1 _ => false

/-- The interval an edge at `tick` ends, as a number: `wrap32(edge_tick - last_edge_tick)` (R12, R72). -/
def View.intervalTo (v : View) (tick : Tick) : Nat :=
  (tick.toNat + 4294967296 - v.lastEdgeTick.toNat) % 4294967296

/-- The slot number `k = bit_count + 1` the edge would fill (R72). -/
def View.slot (v : View) : Int := v.bitCount.toInt + 1

/-- "When `in_frame = 1`, `k` lies in -1..40" (R72), the views a run after reset can meet. -/
def View.reachable (v : View) : Bool :=
  !v.inFrame || (decide (-1 ≤ v.slot) && decide (v.slot ≤ 40))

/-- The condition of the operation's row in R72, on the view before the edge. Rows 4 to 8 need `in_frame`. -/
def Instr.fits (v : View) : Instr → Bool
  | .edgeStart t => decide (Config.block.startGap < v.intervalTo t)
  | .edgeIgnore t => decide (v.intervalTo t ≤ Config.block.startGap) && !v.inFrame
  | .edgeDiscard t =>
      decide (v.intervalTo t ≤ Config.block.startGap) && v.inFrame && (decide (v.slot = -1) || decide (v.slot = 0))
  | .edgeData0 t =>
      decide (Config.block.pulseMin ≤ v.intervalTo t) && decide (v.intervalTo t ≤ Config.block.pulseOne)
        && v.inFrame && decide (1 ≤ v.slot) && decide (v.slot < Config.block.frameBits)
  | .edgeData1 t =>
      decide (Config.block.pulseOne < v.intervalTo t) && decide (v.intervalTo t ≤ Config.block.pulseMax)
        && v.inFrame && decide (1 ≤ v.slot) && decide (v.slot < Config.block.frameBits)
  | .edgeViolation t =>
      (decide (v.intervalTo t < Config.block.pulseMin)
          || (decide (Config.block.pulseMax < v.intervalTo t) && decide (v.intervalTo t ≤ Config.block.startGap)))
        && v.inFrame && decide (1 ≤ v.slot) && decide (v.slot ≤ Config.block.frameBits)
  | .edgeComplete0 t =>
      decide (Config.block.pulseMin ≤ v.intervalTo t) && decide (v.intervalTo t ≤ Config.block.pulseOne)
        && v.inFrame && decide (v.slot = Config.block.frameBits)
  | .edgeComplete1 t =>
      decide (Config.block.pulseOne < v.intervalTo t) && decide (v.intervalTo t ≤ Config.block.pulseMax)
        && v.inFrame && decide (v.slot = Config.block.frameBits)
  | .reset | .detach | .idle | .arm => true
  | .interpretAuto | .interpretDht11 | .interpretDhtxx | .interpretReserved => true

/-- What may stand on the result path of a cycle with primary operation `p` (R71, R166, R167): nothing with
RESET; ARM with any other; an INTERPRET row with a completion and with nothing else; and a completion is
always taken up, by ARM or by an INTERPRET row. -/
def Cycle.resultAllowed (p : Instr) : Option Instr → Bool
  | none => !p.completes
  | some r => (decide (r = .arm) && !decide (p = .reset)) || (r.isInterpret && p.completes)

/-- A cycle the block can perform when its decoder state is seen as `v`. -/
def Cycle.wellFormed (v : View) (c : Cycle) : Bool :=
  c.primary.isPrimary && c.primary.fits v && Cycle.resultAllowed c.primary c.result

/-- `BITSN w, n` needs 1 <= n <= 40 (R83); the other statements have no condition. -/
def PStmt.wellFormed : PStmt → Bool
  | .bitsN _ n => decide (1 ≤ n) && decide (n ≤ 40)
  | .stmt _ | .gap _ | .bits _ | .frame _ _ | .armGap _ | .idleN _ => true

end Sys2Proof
end

