-- ==== Sys2Proof/Decode.lean ====
section
/-! DEFINITION. From the inputs of a cycle to its operations, and back: the stimulus word (30_encoding.md R81),
the cycle control vector (R70, R71), the interval and its class (40_frame_decoder.md R101, R107; R73), the
choice of the EDGE row (R72) and of what stands on the result path (42_host_operations.md R169), the encoder,
and the opcode table's match and mask pairs. Decoding is total: the only things refused, by name, are byte
lists that are no stimulus word. -/

namespace Sys2Proof

/-! ### Variant codes (R76) -/

def Variant.code : Variant → BitVec 2
  | .auto => 0b00#2
  | .dht11 => 0b01#2
  | .dhtxx => 0b10#2
  | .reserved => 0b11#2

def Variant.ofCode (c : BitVec 2) : Variant :=
  if c = 0b00#2 then .auto
  else if c = 0b01#2 then .dht11
  else if c = 0b10#2 then .dhtxx
  else .reserved

/-! ### The stimulus word (R81) -/

/-- `SW[37:36] = variant`, `SW[35:32] = {rst, attach, arm, edge_valid}`, `SW[31:0] = edge_tick`. -/
def wordOfInputs (x : Inputs) : StimulusWord :=
  x.variant.code.setWidth 38 <<< 36 ||| (BitVec.ofBool x.rst).setWidth 38 <<< 35
    ||| (BitVec.ofBool x.attach).setWidth 38 <<< 34 ||| (BitVec.ofBool x.arm).setWidth 38 <<< 33
    ||| (BitVec.ofBool x.edgeValid).setWidth 38 <<< 32 ||| x.edgeTick.setWidth 38

/-- The inputs a stimulus word stands for. -/
def inputsOf (w : StimulusWord) : Inputs where
  variant := Variant.ofCode (w.extractLsb' 36 2)
  rst := w.getLsbD 35
  attach := w.getLsbD 34
  arm := w.getLsbD 33
  edgeValid := w.getLsbD 32
  edgeTick := w.extractLsb' 0 32

/-- The cycle control vector `CV` (R70) of a stimulus word. -/
def controlVector (w : StimulusWord) : BitVec 4 := w.extractLsb' 32 4

/-- Why a byte list is no stimulus word. -/
inductive DecodeReject where
  /-- Fewer than five bytes: a stimulus word has ten hex digits (R81). -/
  | tooShort
  /-- One of the two bits above the 38-bit word is set. -/
  | notAStimulusWord
  deriving DecidableEq, Repr

/-- The stimulus word written by the first five bytes of a list, ten hex digits in the order they are written,
and the bytes after it. The order of the bytes is the model's (assumption log entry 8). -/
def wordOfBytes : List Byte → Except DecodeReject (StimulusWord × List Byte)
  | a :: b :: c :: d :: e :: rest =>
      if a.toNat < 64 then
        .ok (a.setWidth 38 <<< 32 ||| b.setWidth 38 <<< 24 ||| c.setWidth 38 <<< 16 ||| d.setWidth 38 <<< 8
          ||| e.setWidth 38, rest)
      else .error .notAStimulusWord
  | _ => .error .tooShort

/-- The five bytes that write a stimulus word. -/
def bytesOfWord (w : StimulusWord) : List Byte :=
  [(w.extractLsb' 32 6).setWidth 8, w.extractLsb' 24 8, w.extractLsb' 16 8, w.extractLsb' 8 8, w.extractLsb' 0 8]

/-! ### Intervals and the choice of the EDGE row -/

/-- R101: `wrap32(edge_tick - last_edge_tick)`, the time since the previous edge. -/
def interval (last tick : Tick) : Tick := tick - last

/-- The four classes of R73: the start gap of R103, then the pulse-width discriminator of R107. -/
def intervalClass (iv : Tick) : IntervalClass :=
  if Config.block.startGap < iv.toNat then .gap
  else if Config.block.pulseMin ≤ iv.toNat ∧ iv.toNat ≤ Config.block.pulseMax then
    if Config.block.pulseOne < iv.toNat then .bit1 else .bit0
  else .bad

/-- The row of a data slot, in frame and not a start gap: R72 rows 4 to 8. -/
def selectData (lastSlot : Bool) (tick : Tick) : IntervalClass → Instr
  | .gap => .edgeStart tick
  | .bit0 => if lastSlot then .edgeComplete0 tick else .edgeData0 tick
  | .bit1 => if lastSlot then .edgeComplete1 tick else .edgeData1 tick
  | .bad => .edgeViolation tick

/-- R72: the EDGE row for an edge at `tick`. For slot numbers outside -1..40, which no run after reset
meets (R115), it follows the order of the tests in R113 (assumption log entry 5). -/
def selectEdge (v : View) (tick : Tick) : Instr :=
  let cls := intervalClass (interval v.lastEdgeTick tick)
  if cls = .gap then .edgeStart tick
  else if v.inFrame = false then .edgeIgnore tick
  else if v.slot ≤ 0 then .edgeDiscard tick
  else selectData (decide (v.slot = Config.block.frameBits)) tick cls

/-! ### The operations of a cycle -/

/-- R71: reset, then detach, then edge or idle. -/
def primaryOf (v : View) (x : Inputs) : Instr :=
  if x.rst then .reset
  else if x.attach = false then .detach
  else if x.edgeValid then selectEdge v x.edgeTick
  else .idle

/-- R136 to R139: the INTERPRET row of a variant. -/
def interpretRow : Variant → Instr
  | .auto => .interpretAuto
  | .dht11 => .interpretDht11
  | .dhtxx => .interpretDhtxx
  | .reserved => .interpretReserved

/-- R169: after a primary operation that is no reset, ARM if `arm = 1`, else the INTERPRET row if the
primary operation completed a frame. -/
def resultOf (x : Inputs) (p : Instr) : Option Instr :=
  if x.rst then none
  else if x.arm then some .arm
  else if p.completes then some (interpretRow x.variant)
  else none

/-- The operations the block performs in a cycle that samples `x`. -/
def decodeInputs (v : View) (x : Inputs) : Cycle :=
  ⟨primaryOf v x, resultOf x (primaryOf v x)⟩

/-- The operations a stimulus word selects. -/
def decode (v : View) (w : StimulusWord) : Cycle := decodeInputs v (inputsOf w)

/-- The operations the first stimulus word of a byte list selects, and the bytes after it. -/
def decodeBytes (v : View) (bs : List Byte) : Except DecodeReject (Cycle × List Byte) :=
  match wordOfBytes bs with
  | .ok (w, rest) => .ok (decode v w, rest)
  | .error e => .error e

/-! ### The encoder -/

/-- The inputs an operation's own row asks for, every input it does not mention at 0 (R71, R76). -/
def Instr.controls : Instr → Inputs
  | .reset => { rst := true }
  | .detach => {}
  | .idle => { attach := true }
  | .arm => { arm := true }
  | .edgeStart t | .edgeIgnore t | .edgeDiscard t | .edgeData0 t | .edgeData1 t
  | .edgeViolation t | .edgeComplete0 t | .edgeComplete1 t =>
      { attach := true, edgeValid := true, edgeTick := t }
  | .interpretAuto => { variant := .auto }
  | .interpretDht11 => { variant := .dht11 }
  | .interpretDhtxx => { variant := .dhtxx }
  | .interpretReserved => { variant := .reserved }

/-- The inputs of a cycle: those of its primary operation, with `arm` and `variant` from its result path. -/
def Cycle.controls (c : Cycle) : Inputs :=
  match c.result with
  | none => c.primary.controls
  | some r => { c.primary.controls with variant := r.controls.variant, arm := r.controls.arm }

/-- The stimulus word of a cycle; inputs the cycle ignores are 0 (R81). -/
def encode (c : Cycle) : StimulusWord := wordOfInputs c.controls

/-! ### The opcode table -/

/-- The two formats of the table: a row matches the control vector or the variant code. -/
inductive RowFormat where
  | cv
  | variant
  deriving DecidableEq, Repr

structure TableRow where
  format : RowFormat
  pattern : Nat
  mask : Nat
  deriving DecidableEq, Repr

/-- The row of `spec/opcode_table.json` an operation stands for (also R71 and R76). -/
def Instr.row : Instr → TableRow
  | .reset => ⟨.cv, 0b1000, 0b1000⟩
  | .detach => ⟨.cv, 0b0000, 0b1100⟩
  | .idle => ⟨.cv, 0b0100, 0b1101⟩
  | .arm => ⟨.cv, 0b0010, 0b1010⟩
  | .edgeStart _ | .edgeIgnore _ | .edgeDiscard _ | .edgeData0 _ | .edgeData1 _
  | .edgeViolation _ | .edgeComplete0 _ | .edgeComplete1 _ => ⟨.cv, 0b0101, 0b1101⟩
  | .interpretAuto => ⟨.variant, 0b00, 0b11⟩
  | .interpretDht11 => ⟨.variant, 0b01, 0b11⟩
  | .interpretDhtxx => ⟨.variant, 0b10, 0b11⟩
  | .interpretReserved => ⟨.variant, 0b11, 0b11⟩

/-- The field of a stimulus word that a row's format matches. -/
def RowFormat.field (f : RowFormat) (w : StimulusWord) : Nat :=
  match f with
  | .cv => (controlVector w).toNat
  | .variant => (w.extractLsb' 36 2).toNat

/-- A stimulus word matches a row: its field under the mask is the pattern. -/
def TableRow.hit (r : TableRow) (w : StimulusWord) : Bool :=
  decide (r.format.field w &&& r.mask = r.pattern)

/-! ### The host's question about a table word -/

/-- The decoder state after reset (R200). -/
def View.afterReset : View := ⟨false, 0#7, 0#32⟩

/-- The five bytes of a word numbered from the table's bit 0, bits above `nbits` zero. -/
def tableBytes (nbits w : Nat) : List Byte :=
  let v := w % 2 ^ nbits
  [BitVec.ofNat 8 v, BitVec.ofNat 8 (v / 256), BitVec.ofNat 8 (v / 65536), BitVec.ofNat 8 (v / 16777216),
    BitVec.ofNat 8 (v / 4294967296)]

/-- The table's format VARIANT has two bits, its format CV four (rounded up to the first byte of the
stimulus word, whose low half is CV). The two formats number different inputs from bit 0. -/
def isVariantWord (nbits : Nat) : Bool := decide (nbits < 4)

/-- The operation the decoder reads from a table word at the decoder state after reset: of a cycle with two
operations the second, which its row adds to the primary one (assumption log entry 9). -/
def decodeTableWord (nbits w : Nat) : Option Instr :=
  if isVariantWord nbits then some (interpretRow (Variant.ofCode (BitVec.ofNat 2 w)))
  else
    match decodeBytes View.afterReset (tableBytes nbits w) with
    | .ok (c, _) => some (c.result.getD c.primary)
    | .error _ => none

end Sys2Proof
end

