-- ==== Sys2Proof/Machine/State.lean ====
section
/-! DEFINITION. The state of the block: the nine elements of 10_state.md R40 and the stimulus words the outside
world will present. Its faults (none) and refusals, its reset state, and the records its ports and its
interpreter speak in. -/

namespace Sys2Proof.Machine

/-- The status of a Reading (30_encoding.md R77, 60_exceptions.md R181). -/
inductive Status where
  | good
  | badChecksum
  | badData
  | timeout
  deriving DecidableEq, Repr

/-- What `Interpret` returns (41_reading_interpreter.md R140). -/
structure Reading where
  status : Status
  temp : Tenths
  hum : Tenths
  deriving DecidableEq, Repr

/-- What a decoder returns: validity and the two values in tenths (R134, R135). -/
structure Decoded where
  valid : Bool
  temp : Tenths
  hum : Tenths
  deriving DecidableEq, Repr

/-- The output ports (10_state.md R21). -/
structure Outputs where
  status : BitVec 2
  temp : Tenths
  hum : Tenths
  newData : Bool
  done : Bool
  deriving DecidableEq, Repr

structure State where
  /-- R27: a start condition has been seen and a frame is being accumulated. -/
  inFrame : Bool
  /-- R28: the slot counter, two's complement. -/
  bitCount : SlotCount
  /-- R29: the frame being received. -/
  accumulator : Frame
  /-- R30: the tick of the most recent edge processed while attached. -/
  lastEdgeTick : Tick
  /-- R31: the status of the current Reading. -/
  resStatus : Status
  /-- R32: temperature in tenths of a degree Celsius, two's complement. -/
  resTemp : Tenths
  /-- R33: humidity in tenths of a percent. -/
  resHum : Tenths
  /-- R34: a frame has completed since the last ARM or reset. -/
  newData : Bool
  /-- R35: the completion strobe. -/
  done : Bool
  /-- THE MODEL'S OWN: the stimulus words of the coming cycles, the next one first (assumption log entry 1). -/
  stimulus : List StimulusWord
  deriving DecidableEq, Repr

/-- "The block raises no exception and takes no trap" (60_exceptions.md R180): there is no fault. -/
inductive Fault where
  deriving DecidableEq, Repr

inductive Refusal where
  /-- Raised by an arm of `exec` whose operation has no meaning yet; no arm does so. Safe: the machine stops
  where the hardware goes on. -/
  | notModelled (mnemonic : String)
  deriving DecidableEq, Repr

/-- The state right after RESET (70_reset_and_hazards.md R200, 10_state.md R40), no stimulus pending. -/
def State.reset : State where
  inFrame := false
  bitCount := 0
  accumulator := 0
  lastEdgeTick := 0
  resStatus := .timeout
  resTemp := 0
  resHum := 0
  newData := false
  done := false
  stimulus := []

end Sys2Proof.Machine
end

