-- ==== Sys2Proof/Machine/Flags.lean ====
section
/-! DEFINITION. The block's flags, `in_frame`, `new_data` and `done` (10_state.md R36), and their writers. There
are no condition codes, carry or overflow flags (R36). -/

namespace Sys2Proof.Machine

/-- `in_frame <- 1` (R103). -/
def State.enterFrame (s : State) : State := { s with inFrame := true }

/-- `in_frame <- 0` (R111, R112, R164). -/
def State.leaveFrame (s : State) : State := { s with inFrame := false }

/-- `new_data <- b` (R160, R166). -/
def State.setNewData (b : Bool) (s : State) : State := { s with newData := b }

/-- `done <- 1`, the completion strobe (R166). -/
def State.raiseDone (s : State) : State := { s with done := true }

/-- `done <- 0` (R162, R164, and the first line of a cycle in R169). -/
def State.dropDone (s : State) : State := { s with done := false }

end Sys2Proof.Machine
end

