-- ==== Sys2Proof/Machine/Operands.lean ====
section
/-! DEFINITION. The operands of the interpreter: the bytes of a frame (20_memory.md R51, R131), the checksum
(R132), the quantities assembled from bytes (20_memory.md R53, 30_encoding.md R75) and the two decoders
(R134, R135). -/

namespace Sys2Proof.Machine

/-- `b0 = frame[7:0]`, the checksum byte. -/
def byte0 (f : Frame) : Byte := f.extractLsb' 0 8
/-- `b1 = frame[15:8]`. -/
def byte1 (f : Frame) : Byte := f.extractLsb' 8 8
/-- `b2 = frame[23:16]`. -/
def byte2 (f : Frame) : Byte := f.extractLsb' 16 8
/-- `b3 = frame[31:24]`. -/
def byte3 (f : Frame) : Byte := f.extractLsb' 24 8
/-- `b4 = frame[39:32]`. -/
def byte4 (f : Frame) : Byte := f.extractLsb' 32 8

/-- `(b1 + b2 + b3 + b4) mod 256` (R132). -/
def checksum (f : Frame) : Byte := byte1 f + byte2 f + byte3 f + byte4 f

/-- "The frame passes if and only if `sum == b0`" (R132). -/
def checksumPasses (f : Frame) : Bool := decide (checksum f = byte0 f)

/-- A whole-unit byte in tenths: `10 * b` (R75, R134). -/
def wholeUnits (b : Byte) : Tenths := BitVec.ofNat 16 (Config.block.scale * b.toNat)

/-- R134: whole units; the unused bytes `b1` and `b3` must be 0. -/
def decodeDht11 (f : Frame) : Decoded where
  valid :=
    decide (byte1 f = 0) && decide (byte3 f = 0) && decide ((byte2 f).toNat ≤ Config.block.dht11TMax)
      && decide (Config.block.dht11HMin ≤ (byte4 f).toNat) && decide ((byte4 f).toNat ≤ Config.block.dht11HMax)
  temp := wholeUnits (byte2 f)
  hum := wholeUnits (byte4 f)

/-- The DHTXX magnitude `{b2[6:0], b1}` = `((b2 & 0x7F) << 8) | b1` (R75, R135). -/
def dhtxxMagnitude (f : Frame) : BitVec 15 :=
  (byte2 f &&& 0x7F#8).setWidth 15 <<< 8 ||| (byte1 f).setWidth 15

/-- The DHTXX temperature in tenths as an integer: `b2[7]` set means negative (R135). -/
def dhtxxTemperature (f : Frame) : Int :=
  if (byte2 f).getLsbD 7 then -((dhtxxMagnitude f).toNat : Int) else ((dhtxxMagnitude f).toNat : Int)

/-- The DHTXX humidity in tenths `{b4, b3}` = `(b4 << 8) | b3` (R75, R135). -/
def dhtxxHumidity (f : Frame) : Tenths := (byte4 f).setWidth 16 <<< 8 ||| (byte3 f).setWidth 16

/-- R135: tenths, temperature in sign and magnitude; negative zero gives 0 (R78). -/
def decodeDhtxx (f : Frame) : Decoded where
  valid :=
    decide ((dhtxxHumidity f).toNat ≤ Config.block.dhtxxHMax) && decide (Config.block.dhtxxTMin ≤ dhtxxTemperature f)
      && decide (dhtxxTemperature f ≤ Config.block.dhtxxTMax)
  temp := BitVec.ofInt 16 (dhtxxTemperature f)
  hum := dhtxxHumidity f

end Sys2Proof.Machine
end

