-- ==== Sys2Proof/Machine/Ops.lean ====
section
/-! DEFINITION. The shared operations on the block's registers: the decoder state (10_state.md R27 to R30) and the
result register (R31 to R35). The block has no memory to read or write (20_memory.md R50), and takes no
exception (60_exceptions.md R180, R187), so no operation for either stands here. -/

namespace Sys2Proof.Machine

/-! ### Decoder state -/

/-- What the choice of the EDGE row reads (30_encoding.md R72). -/
def State.view (s : State) : View := ⟨s.inFrame, s.bitCount, s.lastEdgeTick⟩

/-- R102: `last_edge_tick <- edge_tick`. -/
def State.recordTick (t : Tick) (s : State) : State := { s with lastEdgeTick := t }

/-- R103: `bit_count <- -2`, `accumulator <- 0`. -/
def State.clearFrame (s : State) : State :=
  { s with bitCount := BitVec.ofInt 7 Config.block.bitCountStart, accumulator := 0 }

/-- R105: `bit_count <- k`, `k = bit_count + 1`. -/
def State.countSlot (s : State) : State := { s with bitCount := s.bitCount + 1 }

/-- R112: `bit_count <- 40`. -/
def State.countLastSlot (s : State) : State := { s with bitCount := BitVec.ofNat 7 Config.block.frameBits }

/-- R108 to R110: `accumulator <- shifted`, or `shifted | 1`. -/
def State.shiftIn (b : Bool) (s : State) : State :=
  { s with accumulator := if b then (s.accumulator <<< 1) ||| 1 else s.accumulator <<< 1 }

/-! ### Result register -/

/-- Write a Reading's status and values. -/
def State.setReading (r : Reading) (s : State) : State :=
  { s with resStatus := r.status, resTemp := r.temp, resHum := r.hum }

/-- The Reading a fresh read starts from: TIMEOUT, 0, 0 (R160). -/
def Reading.fresh : Reading := ⟨.timeout, 0, 0⟩

/-- R160: the four writes of ARM. -/
def State.startRead (s : State) : State := (s.setReading Reading.fresh).setNewData false

/-- R166: the completion write, all five registers. -/
def State.completionWrite (r : Reading) (s : State) : State := ((s.setReading r).setNewData true).raiseDone

/-- R200 `ResetAll`: every element at its reset value; what the outside world will present is not the
block's to change. -/
def State.resetAll (s : State) : State := { State.reset with stimulus := s.stimulus }

end Sys2Proof.Machine
end

