-- ==== Sys2Proof/Machine/Edge.lean ====
section
/-! DEFINITION. The meanings of the eight EDGE rows (40_frame_decoder.md R103 to R112). Which row an edge is, is
`selectEdge`'s business (30_encoding.md R72). None of them touches the result register: "`new_data` and
`done` are untouched by the step" (R103). -/

namespace Sys2Proof.Machine

/-- EDGE.START (R103). -/
def execEdgeStart (t : Tick) (s : State) : Host.Outcome State Fault Refusal :=
  .next (s.recordTick t).enterFrame.clearFrame

/-- EDGE.IGNORE (R104). -/
def execEdgeIgnore (t : Tick) (s : State) : Host.Outcome State Fault Refusal :=
  .next (s.recordTick t)

/-- EDGE.DISCARD (R106). -/
def execEdgeDiscard (t : Tick) (s : State) : Host.Outcome State Fault Refusal :=
  .next (s.recordTick t).countSlot

/-- EDGE.DATA0 (R109). -/
def execEdgeData0 (t : Tick) (s : State) : Host.Outcome State Fault Refusal :=
  .next ((s.recordTick t).countSlot.shiftIn false)

/-- EDGE.DATA1 (R110). -/
def execEdgeData1 (t : Tick) (s : State) : Host.Outcome State Fault Refusal :=
  .next ((s.recordTick t).countSlot.shiftIn true)

/-- EDGE.VIOLATION (R111): the slot is counted and shifted all the same, then the frame is abandoned. -/
def execEdgeViolation (t : Tick) (s : State) : Host.Outcome State Fault Refusal :=
  .next ((s.recordTick t).countSlot.shiftIn false).leaveFrame

/-- EDGE.COMPLETE0 (R112). The completion signal is the cycle's result path (`resultOf`, R165). -/
def execEdgeComplete0 (t : Tick) (s : State) : Host.Outcome State Fault Refusal :=
  .next ((s.recordTick t).countLastSlot.shiftIn false).leaveFrame

/-- EDGE.COMPLETE1 (R112). -/
def execEdgeComplete1 (t : Tick) (s : State) : Host.Outcome State Fault Refusal :=
  .next ((s.recordTick t).countLastSlot.shiftIn true).leaveFrame

end Sys2Proof.Machine
end

