-- ==== Sys2Proof/Machine/HostOps.lean ====
section
/-! DEFINITION. The meanings of RESET, DETACH, IDLE and ARM (70_reset_and_hazards.md R200, 42_host_operations.md R160
to R164). -/

namespace Sys2Proof.Machine

/-- RESET (R200). -/
def execReset (s : State) : Host.Outcome State Fault Refusal := .next s.resetAll

/-- DETACH (R164): `in_frame <- 0`, `done <- 0`; the rest is held. -/
def execDetach (s : State) : Host.Outcome State Fault Refusal := .next s.leaveFrame.dropDone

/-- IDLE (R162): `done <- 0`. -/
def execIdle (s : State) : Host.Outcome State Fault Refusal := .next s.dropDone

/-- ARM (R160): the result register becomes a fresh Reading; the decoder state is not touched. -/
def execArm (s : State) : Host.Outcome State Fault Refusal := .next s.startRead

end Sys2Proof.Machine
end

