-- ==== Sys2Proof/Machine/Interpret.lean ====
section
/-! DEFINITION. The interpreter (41_reading_interpreter.md R131 to R140) and the meanings of the INTERPRET rows: in a
completion cycle without ARM, interpret the frame the completing edge left in the accumulator and do the
completion write of 42_host_operations.md R166. -/

namespace Sys2Proof.Machine

/-- `if v then (GOOD, t, h) else (BAD_DATA, 0, 0)` (R136, R137). -/
def Decoded.reading (d : Decoded) : Reading :=
  if d.valid then ⟨.good, d.temp, d.hum⟩ else ⟨.badData, 0, 0⟩

/-- R133: the checksum comes before any decoding; a mismatch is BAD_CHECKSUM, 0, 0. -/
def afterChecksum (f : Frame) (r : Reading) : Reading :=
  if checksumPasses f then r else ⟨.badChecksum, 0, 0⟩

/-- R138: DHTXX first, then DHT11. -/
def autoReading (f : Frame) : Reading :=
  if (decodeDhtxx f).valid then ⟨.good, (decodeDhtxx f).temp, (decodeDhtxx f).hum⟩
  else if (decodeDht11 f).valid then ⟨.good, (decodeDht11 f).temp, (decodeDht11 f).hum⟩
  else ⟨.badData, 0, 0⟩

/-- INTERPRET.AUTO (R138). -/
def execInterpretAuto (s : State) : Host.Outcome State Fault Refusal :=
  .next (s.completionWrite (afterChecksum s.accumulator (autoReading s.accumulator)))

/-- INTERPRET.DHT11 (R136). -/
def execInterpretDht11 (s : State) : Host.Outcome State Fault Refusal :=
  .next (s.completionWrite (afterChecksum s.accumulator (decodeDht11 s.accumulator).reading))

/-- INTERPRET.DHTXX (R137). -/
def execInterpretDhtxx (s : State) : Host.Outcome State Fault Refusal :=
  .next (s.completionWrite (afterChecksum s.accumulator (decodeDhtxx s.accumulator).reading))

/-- INTERPRET.RESERVED (R139): "The block computes exactly INTERPRET.AUTO" (assumption log entry 3). -/
def execInterpretReserved (s : State) : Host.Outcome State Fault Refusal :=
  .next (s.completionWrite (afterChecksum s.accumulator (autoReading s.accumulator)))

end Sys2Proof.Machine
end

