-- ==== Sys2Proof/Machine/Dispatch.lean ====
section
/-! DEFINITION. One arm per row of the opcode table. -/

namespace Sys2Proof.Machine

def exec (i : Instr) (s : State) : Host.Outcome State Fault Refusal :=
  match i with
  -- host operations
  | .reset => Sys2Proof.Machine.execReset s
  | .detach => Sys2Proof.Machine.execDetach s
  | .idle => Sys2Proof.Machine.execIdle s
  | .arm => Sys2Proof.Machine.execArm s
  -- the edge step
  | .edgeStart t => Sys2Proof.Machine.execEdgeStart t s
  | .edgeIgnore t => Sys2Proof.Machine.execEdgeIgnore t s
  | .edgeDiscard t => Sys2Proof.Machine.execEdgeDiscard t s
  | .edgeData0 t => Sys2Proof.Machine.execEdgeData0 t s
  | .edgeData1 t => Sys2Proof.Machine.execEdgeData1 t s
  | .edgeViolation t => Sys2Proof.Machine.execEdgeViolation t s
  | .edgeComplete0 t => Sys2Proof.Machine.execEdgeComplete0 t s
  | .edgeComplete1 t => Sys2Proof.Machine.execEdgeComplete1 t s
  -- the interpreter and the completion write
  | .interpretAuto => Sys2Proof.Machine.execInterpretAuto s
  | .interpretDht11 => Sys2Proof.Machine.execInterpretDht11 s
  | .interpretDhtxx => Sys2Proof.Machine.execInterpretDhtxx s
  | .interpretReserved => Sys2Proof.Machine.execInterpretReserved s

end Sys2Proof.Machine
end

