-- ==== Sys2Proof/Machine/Cycle.lean ====
section
/-! DEFINITION. One cycle (42_host_operations.md R169): `done <- 0`, the primary operation, then the operation on the
result path, if any. And where the host's table word is placed so that the next step runs it. -/

namespace Sys2Proof.Machine

/-- Run the operation on the result path, if there is one, on the state the primary operation left. -/
def thenExec (o : Host.Outcome State Fault Refusal) (r : Option Instr) : Host.Outcome State Fault Refusal :=
  match o, r with
  | .next s, some i => exec i s
  | .next s, none => .next s
  | .fault f, _ => .fault f
  | .refused f, _ => .refused f

/-- The operations of a cycle in the order of R169. `done` falls first; RESET writes it anyway. -/
def runCycle (c : Cycle) (s : State) : Host.Outcome State Fault Refusal :=
  thenExec (exec c.primary s.dropDone) c.result

/-- Sample a stimulus word: choose the cycle's operations by the pre-edge state, and run them. -/
def sample (w : StimulusWord) (s : State) : Host.Outcome State Fault Refusal :=
  runCycle (decode s.view w) s

/-- Put a word where the next step samples it, in place of the word that stood there. -/
def State.present (w : StimulusWord) (s : State) : State := { s with stimulus := w :: s.stimulus.tail }

/-- A table word of format CV: the first byte of a stimulus word whose other bits are given by the bits of
`w` above it, zero beyond `nbits`. A word the decoder refuses is not placed. -/
def placeControlWord (nbits w : Nat) (s : State) : State :=
  match wordOfBytes (tableBytes nbits w) with
  | .ok (sw, _) => s.present sw
  | .error _ => s

/-- A table word of format VARIANT is only read in a completion cycle (10_state.md R37): the decoder state
just before the 40th data bit, and an edge that completes the frame with a 0. -/
def placeVariantWord (w : Nat) (s : State) : State :=
  State.present
    (wordOfInputs
      { variant := Variant.ofCode (BitVec.ofNat 2 w), attach := true, edgeValid := true,
        edgeTick := s.lastEdgeTick + 76#32 })
    { s with inFrame := true, bitCount := 39#7 }

end Sys2Proof.Machine
end

