-- ==== Sys2Proof/Machine/Step.lean ====
section
/-! DEFINITION. The step: one rising edge of `clk`. The next stimulus word is consumed and sampled. With no word
left the clock is stopped: "While `clk` is stopped no input is sampled, and the state holds"
(60_exceptions.md R194; assumption log entry 2). -/

namespace Sys2Proof.Machine

def step (s : State) : Host.Outcome State Fault Refusal :=
  match s.stimulus with
  | [] => .next s
  | w :: rest => sample w { s with stimulus := rest }

/-- `s` with a table word placed where `step` samples next (assumption log entries 9 and 12). -/
def State.withFetchWord (s : State) (nbits w : Nat) : State :=
  if isVariantWord nbits then placeVariantWord w s else placeControlWord nbits w s

end Sys2Proof.Machine
end

