-- ==== Sys2Proof/Machine/Ports.lean ====
section
/-! DEFINITION. The output ports (10_state.md R21) and the status codes (30_encoding.md R77). "Every output is driven
straight from a register of the result register": the outputs are a function of State alone (R211). -/

namespace Sys2Proof.Machine

def Status.code : Status → BitVec 2
  | .good => 0b00#2
  | .badChecksum => 0b01#2
  | .badData => 0b10#2
  | .timeout => 0b11#2

/-- What the host samples while the block is in state `s`; sampling changes nothing (20_memory.md R57). -/
def State.outputs (s : State) : Outputs :=
  ⟨s.resStatus.code, s.resTemp, s.resHum, s.newData, s.done⟩

end Sys2Proof.Machine
end

