-- ==== Sys2Proof/Machine/Reference.lean ====
section
/-! DEFINITION. The spec's own three WHOLE functions, written out in its order: `EdgeStep` (40_frame_decoder.md R113),
`Interpret` (41_reading_interpreter.md R140) and `Cycle` (42_host_operations.md R169). The step does not call
them: it chooses an operation of the opcode table and runs it. The spec says the two come to the same
("equal to rules R101 to R112 taken together", "equal to rules R131 to R139"), and the statements in
`Certificates/Slice0/Obligations.lean` say so of the model. Numbers are literals here, so that a wrong field of
`Config` shows. -/

namespace Sys2Proof.Machine.Reference

/-- The three classes of `Classify` (R107). -/
inductive Pulse where
  | bit0
  | bit1
  | bad
  deriving DecidableEq, Repr

/-- R107. -/
def classify (iv : Int) : Pulse :=
  if 60 ≤ iv ∧ iv ≤ 150 then (if iv > 100 then .bit1 else .bit0) else .bad

/-- R113: the state after the edge step, and the frame if it completed. -/
def edgeStep (tick : Tick) (s : State) : State × Option Frame :=
  let iv : Int := ((tick.toNat : Int) - (s.lastEdgeTick.toNat : Int)) % 4294967296
  let s := { s with lastEdgeTick := tick }
  if iv > 10000 then
    ({ s with inFrame := true, bitCount := BitVec.ofInt 7 (-2), accumulator := 0 }, none)
  else if s.inFrame then
    let k : Int := s.bitCount.toInt + 1
    let s := { s with bitCount := BitVec.ofInt 7 k }
    if k ≥ 1 then
      let shifted : Frame := s.accumulator.shiftLeft 1
      let s :=
        match classify iv with
        | .bit0 => { s with accumulator := shifted }
        | .bit1 => { s with accumulator := shifted ||| 1 }
        | .bad => { s with accumulator := shifted, inFrame := false }
      if classify iv ≠ .bad ∧ k = 40 then ({ s with inFrame := false }, some s.accumulator) else (s, none)
    else (s, none)
  else (s, none)

/-- Byte `i` of a frame as a number (R131). -/
def byte (f : Frame) (i : Nat) : Nat := f.toNat / 2 ^ (8 * i) % 256

/-- R134 on numbers: validity, temperature, humidity. -/
def decodeDht11 (b1 b2 b3 b4 : Nat) : Bool × Int × Nat :=
  (decide (b1 = 0 ∧ b3 = 0 ∧ b2 ≤ 60 ∧ 9 ≤ b4 ∧ b4 ≤ 90), (10 * b2 : Nat), 10 * b4)

/-- R135 on numbers. -/
def decodeDhtxx (b1 b2 b3 b4 : Nat) : Bool × Int × Nat :=
  let mag : Nat := b2 % 128 * 256 + b1
  let t : Int := if b2 / 128 = 1 then -(mag : Int) else (mag : Int)
  let h : Nat := b4 * 256 + b3
  (decide (h ≤ 1100 ∧ -500 ≤ t ∧ t ≤ 1350), t, h)

/-- R140. -/
def interpret (f : Frame) (variant : BitVec 2) : Reading :=
  let b0 := byte f 0
  let b1 := byte f 1
  let b2 := byte f 2
  let b3 := byte f 3
  let b4 := byte f 4
  if (b1 + b2 + b3 + b4) % 256 ≠ b0 then ⟨.badChecksum, 0, 0⟩
  else
    let x := decodeDhtxx b1 b2 b3 b4
    let d := decodeDht11 b1 b2 b3 b4
    let r := if variant = 0b01#2 then d else if variant = 0b10#2 then x else if x.1 then x else d
    if r.1 then ⟨.good, BitVec.ofInt 16 r.2.1, BitVec.ofNat 16 r.2.2⟩ else ⟨.badData, 0, 0⟩

/-- R169, on the inputs of the cycle, the variant by its code. -/
def cycle (rst attach arm edgeValid : Bool) (edgeTick : Tick) (variant : BitVec 2) (s : State) : State :=
  if rst then
    { inFrame := false, bitCount := 0, accumulator := 0, lastEdgeTick := 0, resStatus := .timeout,
      resTemp := 0, resHum := 0, newData := false, done := false, stimulus := s.stimulus }
  else
    let s := { s with done := false }
    let r : State × Option Frame :=
      if attach = false then ({ s with inFrame := false }, none)
      else if edgeValid then edgeStep edgeTick s
      else (s, none)
    let s := r.1
    if arm then { s with resStatus := .timeout, resTemp := 0, resHum := 0, newData := false }
    else
      match r.2 with
      | none => s
      | some f =>
          let d := interpret f variant
          { s with resStatus := d.status, resTemp := d.temp, resHum := d.hum, newData := true, done := true }

end Sys2Proof.Machine.Reference
end

