-- ==== Sys2Proof/Machine/Stimulus.lean ====
section
/-! DEFINITION. The stimulus statements and pseudo-statements as lists of stimulus words (30_encoding.md R82, R83). A
program in this notation becomes the `stimulus` of a state; the block itself knows nothing of it. -/

namespace Sys2Proof.Machine

/-- One statement of R82: the levels after it, and the word of its cycle (`VARIANT` has none). -/
def emitStmt (l : Levels) : Stmt → Levels × List StimulusWord
  | .reset => (l, [wordOfInputs { variant := l.variant, rst := true, attach := l.attach }])
  | .attach => ({ l with attach := true }, [wordOfInputs { variant := l.variant, attach := true }])
  | .detach => ({ l with attach := false }, [wordOfInputs { variant := l.variant }])
  | .idle => (l, [wordOfInputs { variant := l.variant, attach := l.attach }])
  | .arm => (l, [wordOfInputs { variant := l.variant, attach := l.attach, arm := true }])
  | .edge t =>
      ({ l with tick := t },
        [wordOfInputs { variant := l.variant, attach := l.attach, edgeValid := true, edgeTick := t }])
  | .armEdge t =>
      ({ l with tick := t },
        [wordOfInputs { variant := l.variant, attach := l.attach, arm := true, edgeValid := true, edgeTick := t }])
  | .variant v => ({ l with variant := v }, [])

/-- A list of statements. -/
def emitStmts (l : Levels) : List Stmt → Levels × List StimulusWord
  | [] => (l, [])
  | s :: rest =>
      let (l', ws) := emitStmt l s
      let (l'', ws') := emitStmts l' rest
      (l'', ws ++ ws')

/-- `GAP d` for each interval in turn: `EDGE wrap32(T + d)` (R83). -/
def gaps (t : Tick) : List Tick → List Stmt
  | [] => []
  | d :: rest => .edge (t + d) :: gaps (t + d) rest

/-- The bits of a frame in the order sent: w[39] first (R83, 20_memory.md R52). -/
def frameBitsOf (w : Frame) : List Bool := (List.range 40).map fun j => w.getLsbD (39 - j)

/-- The interval of a data bit in `BITS`: 120 for a 1, 76 for a 0 (R83). -/
def nominalInterval (b : Bool) : Tick := if b then 120#32 else 76#32

/-- The intervals of `BITS w`. -/
def bitIntervals (w : Frame) : List Tick := (frameBitsOf w).map nominalInterval

/-- The expansion of a pseudo-statement when the last tick is `t` (R83). -/
def expand (t : Tick) : PStmt → List Stmt
  | .stmt s => [s]
  | .gap d => gaps t [d]
  | .bits w => gaps t (bitIntervals w)
  | .frame t' w => .edge t' :: gaps t' (100#32 :: 130#32 :: bitIntervals w)
  | .bitsN w n => gaps t ((bitIntervals w).take n)
  | .armGap d => [.armEdge (t + d)]
  | .idleN n => List.replicate n .idle

/-- The stimulus words of a program, from given levels. -/
def assembleFrom (l : Levels) : List PStmt → Levels × List StimulusWord
  | [] => (l, [])
  | p :: rest =>
      let (l', ws) := emitStmts l (expand l.tick p)
      let (l'', ws') := assembleFrom l' rest
      (l'', ws ++ ws')

/-- The stimulus words of a program, from the initial levels of R82. -/
def assemble (p : List PStmt) : List StimulusWord := (assembleFrom {} p).2

end Sys2Proof.Machine
end

