-- ==== Sys2Proof/Safety.lean ====
section
/-! DEFINITION. The terms claims are stated in: runs of several steps, the decoder states and results a run after
reset can meet (40_frame_decoder.md R115, 10_state.md R31 to R35), the edges of a frame on the wire, and what
it means for two states to agree but for their ticks or their results. The block has no fault and no
refusal, so every run is safe in the sense of not stopping. -/

namespace Sys2Proof.Machine

/-- `n` steps, stopping at the first fault or refusal. -/
def run : Nat → State → Host.Outcome State Fault Refusal
  | 0, s => .next s
  | n + 1, s =>
      match step s with
      | .next t => run n t
      | .fault f => .fault f
      | .refused r => .refused r

/-! ### Reachable states -/

/-- R115, the decoder state. In a frame: `bit_count` in -2..39, and the accumulator holds no more than
`bit_count` bits (none before the first data slot). Out of a frame: `bit_count` in -2..40. -/
def DecoderInv (s : State) : Prop :=
  -2 ≤ s.bitCount.toInt ∧
  (s.inFrame = true → s.bitCount.toInt ≤ 39 ∧ s.accumulator.toNat < 2 ^ s.bitCount.toInt.toNat) ∧
  (s.inFrame = false → s.bitCount.toInt ≤ 40)

/-- R32, R33: the values under GOOD lie in the DHTXX ranges or in the DHT11 ranges; R141 and R160: under
every other status both are 0. -/
def ReadingInv (s : State) : Prop :=
  (s.resStatus = .good →
    (-500 ≤ s.resTemp.toInt ∧ s.resTemp.toInt ≤ 1350 ∧ s.resHum.toNat ≤ 1100) ∨
    (0 ≤ s.resTemp.toInt ∧ s.resTemp.toInt ≤ 600 ∧ 90 ≤ s.resHum.toNat ∧ s.resHum.toNat ≤ 900)) ∧
  (s.resStatus ≠ .good → s.resTemp = 0 ∧ s.resHum = 0)

/-- R31, R34, R35: `new_data` is 0 exactly while the status is TIMEOUT; the strobe `done` is 1 only beside
`new_data = 1`, and never inside a frame. -/
def FlagInv (s : State) : Prop :=
  (s.newData = false ↔ s.resStatus = .timeout) ∧ (s.done = true → s.newData = true ∧ s.inFrame = false)

/-- The invariant of the block. -/
def BlockInv (s : State) : Prop := DecoderInv s ∧ ReadingInv s ∧ FlagInv s

/-! ### Cycles -/

/-- The next cycle samples `x`, and `rest` is presented after it. -/
def Samples (s : State) (x : Inputs) (rest : List StimulusWord) : Prop :=
  s.stimulus = wordOfInputs x :: rest

/-- An EDGE cycle: `rst = 0`, `attach = 1`, `edge_valid = 1` (40_frame_decoder.md R100). -/
def IsEdge (x : Inputs) : Prop := x.rst = false ∧ x.attach = true ∧ x.edgeValid = true

/-- In state `s`, an edge at `tick` is the 40th data bit (30_encoding.md R72 rows 7 and 8). -/
def CompletesAt (s : State) (tick : Tick) : Prop :=
  s.inFrame = true ∧ s.bitCount.toInt = 39 ∧
    60 ≤ (tick - s.lastEdgeTick).toNat ∧ (tick - s.lastEdgeTick).toNat ≤ 150

/-- The decoder state of `t` is that of `s`. -/
def SameDecoder (s t : State) : Prop :=
  t.inFrame = s.inFrame ∧ t.bitCount = s.bitCount ∧ t.accumulator = s.accumulator ∧
    t.lastEdgeTick = s.lastEdgeTick

/-- `status`, `temp`, `hum` and `new_data` of `t` are those of `s`. -/
def SameReading (s t : State) : Prop :=
  t.resStatus = s.resStatus ∧ t.resTemp = s.resTemp ∧ t.resHum = s.resHum ∧ t.newData = s.newData

/-! ### A frame on the wire -/

/-- The stimulus words of edges `ivs` apart, one a cycle, the first `ivs[0]` after tick `t`, attached, not
armed, under variant `v`. -/
def edgeWords (v : Variant) (t : Tick) : List Tick → List StimulusWord
  | [] => []
  | iv :: rest =>
      wordOfInputs { variant := v, attach := true, edgeValid := true, edgeTick := t + iv }
        :: edgeWords v (t + iv) rest

/-- An interval that carries the data bit `b` (40_frame_decoder.md R107). -/
def Carries (b : Bool) (iv : Tick) : Prop :=
  if b then 101 ≤ iv.toNat ∧ iv.toNat ≤ 150 else 60 ≤ iv.toNat ∧ iv.toNat ≤ 100

/-! ### Shifted ticks -/

/-- The word with its tick moved by `d`. -/
def shiftWord (d : Tick) (w : StimulusWord) : StimulusWord :=
  wordOfInputs { inputsOf w with edgeTick := (inputsOf w).edgeTick + d }

/-- The state as it would be had the tick counter been ahead by `d`: the last tick and every coming one. -/
def shiftTicks (d : Tick) (s : State) : State :=
  { s with lastEdgeTick := s.lastEdgeTick + d, stimulus := s.stimulus.map (shiftWord d) }

/-- An outcome with its state changed by `f`. -/
def mapNext (f : State → State) : Host.Outcome State Fault Refusal → Host.Outcome State Fault Refusal
  | .next s => .next (f s)
  | .fault r => .fault r
  | .refused r => .refused r

end Sys2Proof.Machine
end

