-- ==== Sys2Proof/Certificates/Slice0/Obligations.lean ====
section
/-! DEFINITION. The statements for the provers. Rules are those of `spec/`. `Samples s x rest` says that the coming
cycle samples the inputs `x`. An equation whose right side is `.next` of an updated state says what the
operation writes, that every other element is unchanged, and that it completes. -/

open Sys2Proof Sys2Proof.Machine

/-! ### RESET, DETACH, IDLE, ARM -/

/-- R200. RESET writes every element of R40 its reset value, from any state; a cycle with `rst = 1` does so
whatever its other inputs are. -/
def Obligations.ResetWritesEveryElement : Prop :=
  ∀ s : State,
    exec .reset s = .next
      { inFrame := false, bitCount := 0#7, accumulator := 0#40, lastEdgeTick := 0#32, resStatus := .timeout,
        resTemp := 0#16, resHum := 0#16, newData := false, done := false, stimulus := s.stimulus } ∧
    ∀ (x : Inputs) (rest : List StimulusWord), x.rst = true → Samples s x rest →
      step s = .next
        { inFrame := false, bitCount := 0#7, accumulator := 0#40, lastEdgeTick := 0#32, resStatus := .timeout,
          resTemp := 0#16, resHum := 0#16, newData := false, done := false, stimulus := rest }

/-- R164. DETACH clears `in_frame` and `done` and holds the rest; a presented edge is not processed; an ARM in the
same cycle still resets the result register. -/
def Obligations.DetachAbandonsTheFrame : Prop :=
  ∀ s : State,
    exec .detach s = .next { s with inFrame := false, done := false } ∧
    ∀ (x : Inputs) (rest : List StimulusWord), x.rst = false → x.attach = false → Samples s x rest →
      (x.arm = false → step s = .next { s with inFrame := false, done := false, stimulus := rest }) ∧
      (x.arm = true → step s = .next
        { s with inFrame := false, done := false, resStatus := .timeout, resTemp := 0#16, resHum := 0#16,
                 newData := false, stimulus := rest })

/-- R162. IDLE writes no decoder state and lets `done` fall. -/
def Obligations.IdleHoldsTheDecoder : Prop :=
  ∀ s : State,
    exec .idle s = .next { s with done := false } ∧
    ∀ (x : Inputs) (rest : List StimulusWord), x.rst = false → x.attach = true → x.edgeValid = false →
      x.arm = false → Samples s x rest → step s = .next { s with done := false, stimulus := rest }

/-- R160. ARM writes TIMEOUT, 0, 0 and `new_data = 0` and touches nothing else. A cycle with `arm = 1`, attached
or not, ends with these and `done = 0`, and its decoder state is that of the same cycle without ARM. -/
def Obligations.ArmStartsAFreshRead : Prop :=
  ∀ s : State,
    exec .arm s = .next
      { s with resStatus := .timeout, resTemp := 0#16, resHum := 0#16, newData := false } ∧
    ∀ (x : Inputs) (rest : List StimulusWord), x.rst = false → x.arm = true → Samples s x rest →
      ∃ t u : State,
        step s = .next t ∧
        step { s with stimulus := wordOfInputs { x with arm := false } :: rest } = .next u ∧
        SameDecoder u t ∧ t.resStatus = .timeout ∧ t.resTemp = 0#16 ∧ t.resHum = 0#16 ∧
        t.newData = false ∧ t.done = false ∧ t.stimulus = rest

/-! ### The EDGE rows -/

/-- R103. EDGE.START, at every interval above 10000 and at no other. -/
def Obligations.EdgeStartBeginsAFrame : Prop :=
  ∀ s : State,
    (∀ t : Tick, exec (.edgeStart t) s = .next
      { s with lastEdgeTick := t, inFrame := true, bitCount := BitVec.ofInt 7 (-2), accumulator := 0#40 }) ∧
    ∀ (x : Inputs) (rest : List StimulusWord), IsEdge x → x.arm = false → Samples s x rest →
      ((decode s.view (wordOfInputs x)).primary = .edgeStart x.edgeTick ↔
        10000 < (x.edgeTick - s.lastEdgeTick).toNat) ∧
      (10000 < (x.edgeTick - s.lastEdgeTick).toNat → step s = .next
        { s with lastEdgeTick := x.edgeTick, inFrame := true, bitCount := BitVec.ofInt 7 (-2),
                 accumulator := 0#40, done := false, stimulus := rest })

/-- R104. EDGE.IGNORE. -/
def Obligations.EdgeOutsideAFrameIsIgnored : Prop :=
  ∀ s : State,
    (∀ t : Tick, exec (.edgeIgnore t) s = .next { s with lastEdgeTick := t }) ∧
    ∀ (x : Inputs) (rest : List StimulusWord), IsEdge x → x.arm = false → Samples s x rest →
      (x.edgeTick - s.lastEdgeTick).toNat ≤ 10000 → s.inFrame = false →
      (decode s.view (wordOfInputs x)).primary = .edgeIgnore x.edgeTick ∧
      step s = .next { s with lastEdgeTick := x.edgeTick, done := false, stimulus := rest }

/-- R106. EDGE.DISCARD: any interval of at most 10000 is consumed without being classified. -/
def Obligations.DiscardSlotsTakeAnyInterval : Prop :=
  ∀ s : State,
    (∀ t : Tick, exec (.edgeDiscard t) s = .next { s with lastEdgeTick := t, bitCount := s.bitCount + 1#7 }) ∧
    ∀ (x : Inputs) (rest : List StimulusWord), IsEdge x → x.arm = false → Samples s x rest →
      (x.edgeTick - s.lastEdgeTick).toNat ≤ 10000 → s.inFrame = true →
      (s.bitCount.toInt = -2 ∨ s.bitCount.toInt = -1) →
      (decode s.view (wordOfInputs x)).primary = .edgeDiscard x.edgeTick ∧
      step s = .next
        { s with lastEdgeTick := x.edgeTick, bitCount := BitVec.ofInt 7 (s.bitCount.toInt + 1), done := false,
                 stimulus := rest }

/-- R109. EDGE.DATA0. -/
def Obligations.ShortPulseAppendsZero : Prop :=
  ∀ s : State,
    (∀ t : Tick, exec (.edgeData0 t) s = .next
      { s with lastEdgeTick := t, bitCount := s.bitCount + 1#7, accumulator := s.accumulator <<< 1 }) ∧
    ∀ (x : Inputs) (rest : List StimulusWord), IsEdge x → x.arm = false → Samples s x rest →
      60 ≤ (x.edgeTick - s.lastEdgeTick).toNat → (x.edgeTick - s.lastEdgeTick).toNat ≤ 100 →
      s.inFrame = true → 0 ≤ s.bitCount.toInt → s.bitCount.toInt ≤ 38 →
      (decode s.view (wordOfInputs x)).primary = .edgeData0 x.edgeTick ∧
      step s = .next
        { s with lastEdgeTick := x.edgeTick, bitCount := BitVec.ofInt 7 (s.bitCount.toInt + 1),
                 accumulator := s.accumulator <<< 1, done := false, stimulus := rest }

/-- R110. EDGE.DATA1. -/
def Obligations.LongPulseAppendsOne : Prop :=
  ∀ s : State,
    (∀ t : Tick, exec (.edgeData1 t) s = .next
      { s with lastEdgeTick := t, bitCount := s.bitCount + 1#7,
               accumulator := (s.accumulator <<< 1) ||| 1#40 }) ∧
    ∀ (x : Inputs) (rest : List StimulusWord), IsEdge x → x.arm = false → Samples s x rest →
      101 ≤ (x.edgeTick - s.lastEdgeTick).toNat → (x.edgeTick - s.lastEdgeTick).toNat ≤ 150 →
      s.inFrame = true → 0 ≤ s.bitCount.toInt → s.bitCount.toInt ≤ 38 →
      (decode s.view (wordOfInputs x)).primary = .edgeData1 x.edgeTick ∧
      step s = .next
        { s with lastEdgeTick := x.edgeTick, bitCount := BitVec.ofInt 7 (s.bitCount.toInt + 1),
                 accumulator := (s.accumulator <<< 1) ||| 1#40, done := false, stimulus := rest }

/-- R111. EDGE.VIOLATION: the slot is counted and shifted, the frame abandoned, and nothing is reported. -/
def Obligations.TimingViolationAbortsTheFrame : Prop :=
  ∀ s : State,
    (∀ t : Tick, exec (.edgeViolation t) s = .next
      { s with lastEdgeTick := t, bitCount := s.bitCount + 1#7, accumulator := s.accumulator <<< 1,
               inFrame := false }) ∧
    ∀ (x : Inputs) (rest : List StimulusWord), IsEdge x → x.arm = false → Samples s x rest →
      ((x.edgeTick - s.lastEdgeTick).toNat ≤ 59 ∨
        (151 ≤ (x.edgeTick - s.lastEdgeTick).toNat ∧ (x.edgeTick - s.lastEdgeTick).toNat ≤ 10000)) →
      s.inFrame = true → 0 ≤ s.bitCount.toInt → s.bitCount.toInt ≤ 39 →
      (decode s.view (wordOfInputs x)).primary = .edgeViolation x.edgeTick ∧
      step s = .next
        { s with lastEdgeTick := x.edgeTick, bitCount := BitVec.ofInt 7 (s.bitCount.toInt + 1),
                 accumulator := s.accumulator <<< 1, inFrame := false, done := false, stimulus := rest }

/-- R112. EDGE.COMPLETE0 and EDGE.COMPLETE1: their writes, when they are chosen, and that the result path takes the
completion up, by the variant's INTERPRET row or by ARM (R166, R167, R169; that these are the operations on the
result path is the model's reading, assumption log entry 7). -/
def Obligations.FortiethBitCompletesTheFrame : Prop :=
  ∀ s : State,
    (∀ t : Tick,
      exec (.edgeComplete0 t) s = .next
        { s with lastEdgeTick := t, bitCount := 40#7, accumulator := s.accumulator <<< 1, inFrame := false } ∧
      exec (.edgeComplete1 t) s = .next
        { s with lastEdgeTick := t, bitCount := 40#7, accumulator := (s.accumulator <<< 1) ||| 1#40,
                 inFrame := false }) ∧
    ∀ (x : Inputs), IsEdge x → CompletesAt s x.edgeTick →
      ((x.edgeTick - s.lastEdgeTick).toNat ≤ 100 →
        (decode s.view (wordOfInputs x)).primary = .edgeComplete0 x.edgeTick) ∧
      (101 ≤ (x.edgeTick - s.lastEdgeTick).toNat →
        (decode s.view (wordOfInputs x)).primary = .edgeComplete1 x.edgeTick) ∧
      (x.arm = false → (decode s.view (wordOfInputs x)).result = some (interpretRow x.variant)) ∧
      (x.arm = true → (decode s.view (wordOfInputs x)).result = some .arm)

/-- R101. The interval is the later tick minus the earlier modulo 2^32. -/
def Obligations.IntervalWrapsModulo32 : Prop :=
  ∀ last tick : Tick,
    ((interval last tick).toNat : Int) = ((tick.toNat : Int) - last.toNat) % 2 ^ 32 ∧
    (tick = last → (interval last tick).toNat = 0) ∧
    (tick.toNat < last.toNat → (interval last tick).toNat = tick.toNat + 2 ^ 32 - last.toNat)

/-- R73. The four interval classes by their ranges. -/
def Obligations.IntervalClassesByRange : Prop :=
  ∀ iv : Tick,
    (intervalClass iv = .gap ↔ 10001 ≤ iv.toNat) ∧
    (intervalClass iv = .bit0 ↔ 60 ≤ iv.toNat ∧ iv.toNat ≤ 100) ∧
    (intervalClass iv = .bit1 ↔ 101 ≤ iv.toNat ∧ iv.toNat ≤ 150) ∧
    (intervalClass iv = .bad ↔ iv.toNat ≤ 59 ∨ (151 ≤ iv.toNat ∧ iv.toNat ≤ 10000))

/-- R102. Every EDGE cycle records its tick, whatever the sub-operation and whether or not it is armed. -/
def Obligations.EveryEdgeRecordsItsTick : Prop :=
  ∀ (s : State) (x : Inputs) (rest : List StimulusWord), IsEdge x → Samples s x rest →
    ∃ t : State, step s = .next t ∧ t.lastEdgeTick = x.edgeTick

/-- R100. The edge step runs in EDGE cycles only; in every other cycle the decoder state is written by RESET
and, in `in_frame` alone, by DETACH. -/
def Obligations.DecoderMovesOnlyOnEdges : Prop :=
  ∀ (s : State) (x : Inputs) (rest : List StimulusWord), Samples s x rest →
    (IsEdge x ↔ (decode s.view (wordOfInputs x)).primary = selectEdge s.view x.edgeTick) ∧
    (¬ IsEdge x → x.rst = false →
      ∃ t : State, step s = .next t ∧ t.bitCount = s.bitCount ∧ t.accumulator = s.accumulator ∧
        t.lastEdgeTick = s.lastEdgeTick ∧ t.inFrame = (x.attach && s.inFrame))

/-- R105. Every in-frame edge that is no start gap counts one slot; the 7-bit counter does not overflow in the
decoder states R115 allows. -/
def Obligations.InFrameEdgesCountSlots : Prop :=
  ∀ (s : State) (x : Inputs) (rest : List StimulusWord), IsEdge x → Samples s x rest →
    (x.edgeTick - s.lastEdgeTick).toNat ≤ 10000 → s.inFrame = true →
    ∃ t : State, step s = .next t ∧ t.bitCount = BitVec.ofInt 7 (s.bitCount.toInt + 1) ∧
      (DecoderInv s → t.bitCount.toInt = s.bitCount.toInt + 1 ∧ t.bitCount.toInt ≤ 40)

/-- 40_frame_decoder.md section 3. Every data slot shifts the accumulator left and appends 1 exactly for intervals
101..150; in the decoder states R115 allows no bit is lost. -/
def Obligations.DataSlotsShiftWithoutLoss : Prop :=
  ∀ (s : State) (x : Inputs) (rest : List StimulusWord), IsEdge x → Samples s x rest →
    (x.edgeTick - s.lastEdgeTick).toNat ≤ 10000 → s.inFrame = true → 0 ≤ s.bitCount.toInt →
    ∃ (t : State) (b : Nat), step s = .next t ∧
      b = (if 101 ≤ (x.edgeTick - s.lastEdgeTick).toNat ∧ (x.edgeTick - s.lastEdgeTick).toNat ≤ 150 then 1 else 0) ∧
      t.accumulator.toNat = (2 * s.accumulator.toNat + b) % 2 ^ 40 ∧
      (DecoderInv s → t.accumulator.toNat = 2 * s.accumulator.toNat + b)

/-- R113. The EDGE row chosen, run by `exec`, does what `EdgeStep` does, and is a COMPLETE row exactly when
`EdgeStep` returns a frame, which is then the accumulator. -/
def Obligations.EdgeRowsTogetherAreEdgeStep : Prop :=
  ∀ (s : State) (t : Tick),
    exec (selectEdge s.view t) s = .next (Reference.edgeStep t s).1 ∧
    ((selectEdge s.view t).completes = true ↔
      (Reference.edgeStep t s).2 = some (Reference.edgeStep t s).1.accumulator) ∧
    ((selectEdge s.view t).completes = false ↔ (Reference.edgeStep t s).2 = none)

/-! ### Encodings -/

/-- R72. In the decoder states a run can meet, the row chosen fits its condition, and no other row does. -/
def Obligations.ExactlyOneEdgeRowFits : Prop :=
  ∀ (v : View) (t : Tick), v.reachable = true →
    (selectEdge v t).fits v = true ∧
    ∀ i ∈ [Instr.edgeStart t, .edgeIgnore t, .edgeDiscard t, .edgeData0 t, .edgeData1 t, .edgeViolation t,
           .edgeComplete0 t, .edgeComplete1 t], i.fits v = true → i = selectEdge v t

/-- R71. The primary operation and ARM by the match and mask pairs over `CV`. -/
def Obligations.ControlVectorSelectsTheOperation : Prop :=
  ∀ (v : View) (w : StimulusWord),
    ((decode v w).primary = .reset ↔ controlVector w &&& 0b1000#4 = 0b1000#4) ∧
    ((decode v w).primary = .detach ↔ controlVector w &&& 0b1100#4 = 0b0000#4) ∧
    ((decode v w).primary = .idle ↔ controlVector w &&& 0b1101#4 = 0b0100#4) ∧
    ((decode v w).primary = selectEdge v (inputsOf w).edgeTick ↔ controlVector w &&& 0b1101#4 = 0b0101#4) ∧
    ((decode v w).result = some .arm ↔ controlVector w &&& 0b1010#4 = 0b0010#4)

/-- 30_encoding.md sections 1, 2 and 4. Each operation decoding finds in a word matches that operation's row of the
opcode table in the word. -/
def Obligations.DecodedOperationsMatchTheirRows : Prop :=
  ∀ (v : View) (w : StimulusWord),
    (decode v w).primary.row.hit w = true ∧ ∀ r, (decode v w).result = some r → r.row.hit w = true

/-- R81. The layout of the stimulus word, both ways; the tick is 0 where no edge is presented; its example. -/
def Obligations.StimulusWordLayout : Prop :=
  (∀ x : Inputs,
    (wordOfInputs x).extractLsb' 36 2 = x.variant.code ∧ (wordOfInputs x).getLsbD 35 = x.rst ∧
    (wordOfInputs x).getLsbD 34 = x.attach ∧ (wordOfInputs x).getLsbD 33 = x.arm ∧
    (wordOfInputs x).getLsbD 32 = x.edgeValid ∧ (wordOfInputs x).extractLsb' 0 32 = x.edgeTick ∧
    inputsOf (wordOfInputs x) = x) ∧
  (∀ w : StimulusWord, wordOfInputs (inputsOf w) = w) ∧
  (∀ c : Cycle, c.controls.edgeValid = false → (encode c).extractLsb' 0 32 = 0#32) ∧
  inputsOf 0x1500004E20#38 =
    { variant := .dht11, rst := false, attach := true, arm := false, edgeValid := true, edgeTick := 20000#32 }

/-- Decode and encode agree on every cycle the block can perform: from the stimulus word, and from its bytes with
anything after them (the order of the bytes is the model's choice, assumption log entry 8). -/
def Obligations.DecodeEncodeGivesTheCycleBack : Prop :=
  ∀ (v : View) (c : Cycle), c.wellFormed v = true →
    decode v (encode c) = c ∧
    ∀ rest : List Byte, decodeBytes v (bytesOfWord (encode c) ++ rest) = .ok (c, rest)

/-- Every stimulus word decodes, in a decoder state a run can meet, to a well-formed cycle, and encoding that cycle
drops only inputs it ignores. -/
def Obligations.EveryWordDecodesToAWellFormedCycle : Prop :=
  ∀ (v : View) (w : StimulusWord), v.reachable = true →
    (decode v w).wellFormed v = true ∧ decode v (encode (decode v w)) = decode v w

/-- Words written out by hand from R81, R70, R72 and R76, some of them the words of the spec's programs. -/
def Obligations.WrittenOutWordsDecode : Prop :=
  decode ⟨false, 0#7, 0#32⟩ 0x1800000000#38 = ⟨.reset, none⟩ ∧
  decode ⟨true, 2#7, 40382#32⟩ 0x2100009E34#38 = ⟨.detach, none⟩ ∧
  decode ⟨false, 0#7, 0#32⟩ 0x1600000000#38 = ⟨.idle, some .arm⟩ ∧
  decode ⟨false, 0#7, 0#32⟩ 0x1500004E20#38 = ⟨.edgeStart 20000#32, none⟩ ∧
  decode ⟨true, 5#7, 1000#32⟩ 0x050000044D#38 = ⟨.edgeData1 1101#32, none⟩ ∧
  decode ⟨true, 39#7, 23722#32⟩ 0x1500005CF6#38 = ⟨.edgeComplete0 23798#32, some .interpretDht11⟩ ∧
  decode ⟨true, 39#7, 23986#32⟩ 0x2700005E2A#38 = ⟨.edgeComplete1 24106#32, some .arm⟩

/-! ### The interpreter -/

/-- R133. A frame whose checksum byte does not match is BAD_CHECKSUM, 0, 0 under every variant. The rule's
function is pure; that the row itself does the completion write of R166, `new_data` and `done` included, is the
model's reading (assumption log entry 7). -/
def Obligations.ChecksumMismatchIsBadChecksum : Prop :=
  ∀ (s : State), ∀ i ∈ [Instr.interpretAuto, .interpretDht11, .interpretDhtxx, .interpretReserved],
    (Reference.byte s.accumulator 1 + Reference.byte s.accumulator 2 + Reference.byte s.accumulator 3
        + Reference.byte s.accumulator 4) % 256 ≠ Reference.byte s.accumulator 0 →
    exec i s = .next
      { s with resStatus := .badChecksum, resTemp := 0#16, resHum := 0#16, newData := true, done := true }

/-- R134, R136. INTERPRET.DHT11 on a frame that passes the checksum. The rules' functions are pure; that the row itself
does the completion write of R166 is the model's reading (assumption log entry 7). -/
def Obligations.Dht11ReadsWholeUnits : Prop :=
  ∀ (s : State) (b1 b2 b3 b4 : Nat),
    b1 = Reference.byte s.accumulator 1 → b2 = Reference.byte s.accumulator 2 →
    b3 = Reference.byte s.accumulator 3 → b4 = Reference.byte s.accumulator 4 →
    (b1 + b2 + b3 + b4) % 256 = Reference.byte s.accumulator 0 →
    (b1 = 0 ∧ b3 = 0 ∧ b2 ≤ 60 ∧ 9 ≤ b4 ∧ b4 ≤ 90 →
      exec .interpretDht11 s = .next
        { s with resStatus := .good, resTemp := BitVec.ofNat 16 (10 * b2), resHum := BitVec.ofNat 16 (10 * b4),
                 newData := true, done := true }) ∧
    (¬ (b1 = 0 ∧ b3 = 0 ∧ b2 ≤ 60 ∧ 9 ≤ b4 ∧ b4 ≤ 90) →
      exec .interpretDht11 s = .next
        { s with resStatus := .badData, resTemp := 0#16, resHum := 0#16, newData := true, done := true })

/-- R135, R137. INTERPRET.DHTXX on a frame that passes the checksum: tenths, sign and magnitude. The rules' functions
are pure; that the row itself does the completion write of R166 is the model's reading (assumption log entry 7). -/
def Obligations.DhtxxReadsSignedTenths : Prop :=
  ∀ (s : State) (b1 b2 b3 b4 : Nat) (t : Int) (h : Nat),
    b1 = Reference.byte s.accumulator 1 → b2 = Reference.byte s.accumulator 2 →
    b3 = Reference.byte s.accumulator 3 → b4 = Reference.byte s.accumulator 4 →
    (b1 + b2 + b3 + b4) % 256 = Reference.byte s.accumulator 0 →
    t = (if 128 ≤ b2 then -(((b2 - 128) * 256 + b1 : Nat) : Int) else ((b2 * 256 + b1 : Nat) : Int)) →
    h = b4 * 256 + b3 →
    (h ≤ 1100 ∧ -500 ≤ t ∧ t ≤ 1350 →
      exec .interpretDhtxx s = .next
        { s with resStatus := .good, resTemp := BitVec.ofInt 16 t, resHum := BitVec.ofNat 16 h,
                 newData := true, done := true }) ∧
    (¬ (h ≤ 1100 ∧ -500 ≤ t ∧ t ≤ 1350) →
      exec .interpretDhtxx s = .next
        { s with resStatus := .badData, resTemp := 0#16, resHum := 0#16, newData := true, done := true })

/-- R138. INTERPRET.AUTO tries DHTXX, then DHT11: it does what the row of the first valid decoding does, else
BAD_DATA. -/
def Obligations.AutoTriesDhtxxThenDht11 : Prop :=
  ∀ s u w : State, exec .interpretDhtxx s = .next u → exec .interpretDht11 s = .next w →
    (u.resStatus = .good → exec .interpretAuto s = .next u) ∧
    (u.resStatus ≠ .good → exec .interpretAuto s = .next w)

/-- R140. The four INTERPRET rows are the whole function `Interpret` followed by the completion write.
`Interpret` is pure; that the rows do the completion write of R166 is the model's reading (assumption log entry 7).
Code 0b11 computes AUTO, which R139 says of the block and 93_implementation_defined.md I3 allows (entry 3). -/
def Obligations.InterpretRowsTogetherAreInterpret : Prop :=
  ∀ (s : State) (v : Variant),
    exec (interpretRow v) s = .next
      { s with resStatus := (Reference.interpret s.accumulator v.code).status,
               resTemp := (Reference.interpret s.accumulator v.code).temp,
               resHum := (Reference.interpret s.accumulator v.code).hum, newData := true, done := true }

/-- 41_reading_interpreter.md section 4 (R141's clauses). An INTERPRET row never gives TIMEOUT; under GOOD it carries the
values of a valid decoding; under any other status 0 and 0 (the spec's decision D8). That the row writes the
Reading into State is the model's reading (assumption log entry 7). -/
def Obligations.InterpretResultValues : Prop :=
  ∀ (s : State), ∀ i ∈ [Instr.interpretAuto, .interpretDht11, .interpretDhtxx, .interpretReserved],
    ∃ t : State, exec i s = .next t ∧ t.resStatus ≠ .timeout ∧
      (t.resStatus = .good →
        ∃ d ∈ [decodeDhtxx s.accumulator, decodeDht11 s.accumulator],
          d.valid = true ∧ t.resTemp = d.temp ∧ t.resHum = d.hum) ∧
      (t.resStatus ≠ .good → t.resTemp = 0#16 ∧ t.resHum = 0#16)

/-- 41_reading_interpreter.md section 5, marked derived there. No frame is valid under both decoders, so the order in
AUTO cannot change its result. -/
def Obligations.NoFrameIsValidUnderBothDecoders : Prop :=
  ∀ f : Frame, ¬ ((decodeDht11 f).valid = true ∧ (decodeDhtxx f).valid = true) ∧
    autoReading f = (if (decodeDht11 f).valid then (decodeDht11 f).reading else (decodeDhtxx f).reading)

/-- 41_reading_interpreter.md section 5, marked derived there. Under every variant the result is BAD_CHECKSUM exactly
when the checksum byte differs from the sum. That the row writes the Reading into State is the model's reading
(assumption log entry 7). -/
def Obligations.BadChecksumExactlyOnMismatch : Prop :=
  ∀ (s : State), ∀ i ∈ [Instr.interpretAuto, .interpretDht11, .interpretDhtxx, .interpretReserved],
    ∃ t : State, exec i s = .next t ∧
      (t.resStatus = .badChecksum ↔
        (Reference.byte s.accumulator 1 + Reference.byte s.accumulator 2 + Reference.byte s.accumulator 3
          + Reference.byte s.accumulator 4) % 256 ≠ Reference.byte s.accumulator 0)

/-- 41_reading_interpreter.md section 5. The integer comparisons in tenths decide validity as exact division by ten and
the bounds 110, -50 and 135 do. (Exact rationals: the spec's claim about binary64 arithmetic is marked there as
general knowledge and is not stated here.) -/
def Obligations.TenthsDecideAsExactDivision : Prop :=
  ∀ (f : Frame) (h t : ℚ),
    h = ((Reference.byte f 4 * 256 + Reference.byte f 3 : Nat) : ℚ) / 10 →
    t = (if 128 ≤ Reference.byte f 2 then -((((Reference.byte f 2 - 128) * 256 + Reference.byte f 1 : Nat) : ℚ) / 10)
      else ((Reference.byte f 2 * 256 + Reference.byte f 1 : Nat) : ℚ) / 10) →
    ((decodeDhtxx f).valid = true ↔ h ≤ 110 ∧ -50 ≤ t ∧ t ≤ 135)

/-! ### The result path and the cycle -/

/-- A step runs the operations its word decodes to: with a word pending, the primary operation on the state with that
word consumed and `done` low, then the operation on the result path; with none pending the clock is stopped and
the state holds (assumption log entries 2 and 7). -/
def Obligations.StepRunsTheDecodedOperations : Prop :=
  (∀ (s : State) (w : StimulusWord) (rest : List StimulusWord), s.stimulus = w :: rest →
    ∃ t : State,
      exec (decode s.view w).primary { s with stimulus := rest, done := false } = .next t ∧
      ((decode s.view w).result = none → step s = .next t) ∧
      (∀ r, (decode s.view w).result = some r → step s = exec r t)) ∧
  ∀ s : State, s.stimulus = [] → step s = .next s

/-- 60_exceptions.md section 1. The block never stops: every operation and every step answers a next state. -/
def Obligations.NothingEverStops : Prop :=
  (∀ (i : Instr) (s : State), ∃ t : State, exec i s = .next t) ∧ ∀ s : State, ∃ t : State, step s = .next t

/-- R166. A completing edge without ARM writes the Reading of the completed frame, `new_data` and `done`, all in the
one step. -/
def Obligations.CompletionWritesTheReading : Prop :=
  ∀ (s : State) (x : Inputs) (rest : List StimulusWord) (f : Frame), IsEdge x → x.arm = false →
    CompletesAt s x.edgeTick → Samples s x rest →
    f = (if 101 ≤ (x.edgeTick - s.lastEdgeTick).toNat then (s.accumulator <<< 1) ||| 1#40
      else s.accumulator <<< 1) →
    step s = .next
      { inFrame := false, bitCount := 40#7, accumulator := f, lastEdgeTick := x.edgeTick,
        resStatus := (Reference.interpret f x.variant.code).status,
        resTemp := (Reference.interpret f x.variant.code).temp,
        resHum := (Reference.interpret f x.variant.code).hum, newData := true, done := true, stimulus := rest }

/-- R167. With ARM in the same cycle the decoder state completes all the same, and the result register is reset. -/
def Obligations.ArmPreemptsTheCompletion : Prop :=
  ∀ (s : State) (x : Inputs) (rest : List StimulusWord) (f : Frame), IsEdge x → x.arm = true →
    CompletesAt s x.edgeTick → Samples s x rest →
    f = (if 101 ≤ (x.edgeTick - s.lastEdgeTick).toNat then (s.accumulator <<< 1) ||| 1#40
      else s.accumulator <<< 1) →
    step s = .next
      { inFrame := false, bitCount := 40#7, accumulator := f, lastEdgeTick := x.edgeTick, resStatus := .timeout,
        resTemp := 0#16, resHum := 0#16, newData := false, done := false, stimulus := rest }

/-- R168. `done` is 1 after exactly the cycles that are completion writes. -/
def Obligations.DoneLastsOneCycle : Prop :=
  ∀ (s : State) (x : Inputs) (rest : List StimulusWord), Samples s x rest →
    ∃ t : State, step s = .next t ∧
      (t.done = true ↔ IsEdge x ∧ x.arm = false ∧ CompletesAt s x.edgeTick)

/-- R169. The step is the spec's per-cycle function, for every state and all inputs. -/
def Obligations.StepIsTheCycleFunction : Prop :=
  ∀ (s : State) (x : Inputs) (rest : List StimulusWord), Samples s x rest →
    step s = .next
      (Reference.cycle x.rst x.attach x.arm x.edgeValid x.edgeTick x.variant.code { s with stimulus := rest })

/-- R170. A completion overwrites the result register: nothing of the earlier one is left, and `new_data` is 1. -/
def Obligations.LaterCompletionOverwrites : Prop :=
  ∀ (s u : State) (x : Inputs) (rest : List StimulusWord), IsEdge x → x.arm = false →
    CompletesAt s x.edgeTick → SameDecoder s u → Samples s x rest → Samples u x rest →
    step u = step s ∧ ∃ t : State, step s = .next t ∧ t.newData = true

/-- R182. A timing violation, a start gap over a frame and a detach inside a frame, without ARM, change the decoder
state and leave the result register, `new_data` and `done` as they were. (The premise `BlockInv` says that `done` is 0 inside a frame.) -/
def Obligations.AbortsAreSilent : Prop :=
  ∀ (s : State) (x : Inputs) (rest : List StimulusWord), BlockInv s → s.inFrame = true → x.rst = false →
    x.arm = false → Samples s x rest →
    (x.attach = false ∨
      (IsEdge x ∧ 10000 < (x.edgeTick - s.lastEdgeTick).toNat) ∨
      (IsEdge x ∧ 0 ≤ s.bitCount.toInt ∧
        ((x.edgeTick - s.lastEdgeTick).toNat < 60 ∨
          (150 < (x.edgeTick - s.lastEdgeTick).toNat ∧ (x.edgeTick - s.lastEdgeTick).toNat ≤ 10000)))) →
    ∃ t : State, step s = .next t ∧ ¬ SameDecoder s t ∧ SameReading s t ∧ t.done = s.done

/-- 10_state.md section 4, the writers of `res_status`, `res_temp`, `res_hum` and `new_data`: a cycle that is no reset,
no ARM and no completion leaves them as they were. -/
def Obligations.ReadingHasThreeWriters : Prop :=
  ∀ (s : State) (x : Inputs) (rest : List StimulusWord), x.rst = false → x.arm = false →
    ¬ (IsEdge x ∧ CompletesAt s x.edgeTick) → Samples s x rest →
    ∃ t : State, step s = .next t ∧ SameReading s t

/-- R37. `variant` is read only in a completion cycle: two cycles that differ in it alone do the same unless an unarmed
edge completes a frame. -/
def Obligations.VariantReadOnlyAtCompletion : Prop :=
  ∀ (s : State) (x : Inputs) (v : Variant) (rest : List StimulusWord), Samples s x rest →
    ¬ (IsEdge x ∧ x.arm = false ∧ CompletesAt s x.edgeTick) →
    step { s with stimulus := wordOfInputs { x with variant := v } :: rest } = step s

/-- 30_encoding.md section 5. `edge_tick` is ignored in a cycle that is no EDGE cycle, and an edge presented while
detached or in reset is lost. -/
def Obligations.TickIgnoredOutsideEdgeCycles : Prop :=
  ∀ (s : State) (x : Inputs) (t : Tick) (rest : List StimulusWord), Samples s x rest →
    (¬ IsEdge x → step { s with stimulus := wordOfInputs { x with edgeTick := t } :: rest } = step s) ∧
    (x.rst = true ∨ x.attach = false → ∀ b : Bool,
      step { s with stimulus := wordOfInputs { x with edgeValid := b, edgeTick := t } :: rest } = step s)

/-- R21, R77. The outputs are the result register, the status by its code, whatever inputs are presented. -/
def Obligations.OutputsAreTheResultRegister : Prop :=
  ∀ s : State,
    s.outputs.temp = s.resTemp ∧ s.outputs.hum = s.resHum ∧ s.outputs.newData = s.newData ∧
    s.outputs.done = s.done ∧
    (s.outputs.status = 0b00#2 ↔ s.resStatus = .good) ∧ (s.outputs.status = 0b01#2 ↔ s.resStatus = .badChecksum) ∧
    (s.outputs.status = 0b10#2 ↔ s.resStatus = .badData) ∧ (s.outputs.status = 0b11#2 ↔ s.resStatus = .timeout) ∧
    ∀ inputs : List StimulusWord, State.outputs { s with stimulus := inputs } = s.outputs

/-! ### Invariants and runs -/

/-- The state after reset meets the invariant. -/
def Obligations.ResetStateMeetsInv : Prop := BlockInv State.reset

/-- Every step keeps the invariant: the decoder states of 40_frame_decoder.md section 5, the ranges of the results, and the
relation of the flags. -/
def Obligations.EveryStepKeepsInv : Prop :=
  ∀ s t : State, BlockInv s → step s = .next t → BlockInv t

/-- 70_reset_and_hazards.md section 1, marked derived there. The first edge after reset starts a frame exactly if its tick
is greater than 10000, and is ignored otherwise. -/
def Obligations.FirstEdgeAfterReset : Prop :=
  ∀ (x : Inputs) (rest : List StimulusWord), IsEdge x → x.arm = false →
    (10000 < x.edgeTick.toNat →
      step { State.reset with stimulus := wordOfInputs x :: rest } = .next
        { State.reset with inFrame := true, bitCount := BitVec.ofInt 7 (-2), lastEdgeTick := x.edgeTick,
                           stimulus := rest }) ∧
    (x.edgeTick.toNat ≤ 10000 →
      step { State.reset with stimulus := wordOfInputs x :: rest } = .next
        { State.reset with lastEdgeTick := x.edgeTick, stimulus := rest })

/-- 42_host_operations.md section 4, marked derived there. Through any number of detached, unarmed cycles, whatever edges are
presented, only `in_frame` and `done` change, and those in the first. -/
def Obligations.DetachedEdgesChangeNothing : Prop :=
  ∀ (n : Nat) (s : State), 0 < n → n ≤ s.stimulus.length →
    (∀ w ∈ s.stimulus.take n, (inputsOf w).rst = false ∧ (inputsOf w).attach = false ∧ (inputsOf w).arm = false) →
    run n s = .next { s with inFrame := false, done := false, stimulus := s.stimulus.drop n }

/-- 40_frame_decoder.md section 5, marked derived there. Out of a frame and with `done` low, no completion is reported before 43
EDGE cycles have been sampled. -/
def Obligations.NoCompletionBefore43Edges : Prop :=
  ∀ (n : Nat) (s t : State), s.inFrame = false → s.done = false → run n s = .next t → t.done = true →
    43 ≤ ((s.stimulus.take n).filter fun w =>
      !(inputsOf w).rst && (inputsOf w).attach && (inputsOf w).edgeValid).length

/-- 20_memory.md section 1, 30_encoding.md section 3, 40_frame_decoder.md sections 3 and 4. From ANY state, a start gap, two
intervals of at most 10000 and forty data intervals on the wire, one edge a cycle, deliver the frame whose bit
`40 - j` is data bit `j`: after 43 steps it stands in the accumulator, and its Reading in the result register. -/
def Obligations.FrameOnTheWireIsDelivered : Prop :=
  ∀ (s : State) (v : Variant) (gap d1 d2 : Tick) (bits : List Bool) (ivs : List Tick) (rest : List StimulusWord),
    10000 < gap.toNat → d1.toNat ≤ 10000 → d2.toNat ≤ 10000 → bits.length = 40 → List.Forall₂ Carries bits ivs →
    s.stimulus = edgeWords v s.lastEdgeTick (gap :: d1 :: d2 :: ivs) ++ rest →
    ∃ t : State, run 43 s = .next t ∧
      t.inFrame = false ∧ t.bitCount = 40#7 ∧
      (∀ j, 1 ≤ j → j ≤ 40 → t.accumulator[40 - j]? = bits[j - 1]?) ∧
      t.lastEdgeTick = s.lastEdgeTick + (gap :: d1 :: d2 :: ivs).sum ∧
      t.resStatus = (Reference.interpret t.accumulator v.code).status ∧
      t.resTemp = (Reference.interpret t.accumulator v.code).temp ∧
      t.resHum = (Reference.interpret t.accumulator v.code).hum ∧
      t.newData = true ∧ t.done = true ∧ t.stimulus = rest

/-- 40_frame_decoder.md section 5, marked derived there. Only intervals matter: moving the last tick and every coming tick by the
same amount moves the ticks of the outcome by that amount and changes nothing else, over any number of steps
without a reset. -/
def Obligations.DecodingIsTransparentToTickWrap : Prop :=
  ∀ (n : Nat) (d : Tick) (s : State), (∀ w ∈ s.stimulus.take n, (inputsOf w).rst = false) →
    run n (shiftTicks d s) = mapNext (shiftTicks d) (run n s)

/-- 30_encoding.md section 6. The pseudo-statement `FRAME t, w`, while attached, is 43 EDGE cycles: the edge at `t`, the two
discard intervals and, for each bit of `w` from bit 39 down, an interval that carries it. -/
def Obligations.FrameStatementIsAFrameOnTheWire : Prop :=
  ∀ (l : Levels) (t : Tick) (w : Frame), l.attach = true →
    ∃ ivs : List Tick,
      (assembleFrom l [.frame t w]).2
        = edgeWords l.variant l.tick ((t - l.tick) :: 100#32 :: 130#32 :: ivs) ∧
      ivs.length = 40 ∧
      List.Forall₂ Carries ((List.range 40).map fun j => w.getLsbD (39 - j)) ivs
end

