-- ==== Sys2Proof/Laws/State.lean ====
section
/-! SUPPORT. What each update of the state writes and what it leaves: one lemma per field per update, true by
`rfl`. -/

namespace Sys2Proof.Machine

variable (s : State)

/-! `enterFrame` -/

@[simp] theorem State.enterFrame_inFrame : s.enterFrame.inFrame = true := rfl
@[simp] theorem State.enterFrame_bitCount : s.enterFrame.bitCount = s.bitCount := rfl
@[simp] theorem State.enterFrame_accumulator : s.enterFrame.accumulator = s.accumulator := rfl
@[simp] theorem State.enterFrame_lastEdgeTick : s.enterFrame.lastEdgeTick = s.lastEdgeTick := rfl
@[simp] theorem State.enterFrame_resStatus : s.enterFrame.resStatus = s.resStatus := rfl
@[simp] theorem State.enterFrame_resTemp : s.enterFrame.resTemp = s.resTemp := rfl
@[simp] theorem State.enterFrame_resHum : s.enterFrame.resHum = s.resHum := rfl
@[simp] theorem State.enterFrame_newData : s.enterFrame.newData = s.newData := rfl
@[simp] theorem State.enterFrame_done : s.enterFrame.done = s.done := rfl
@[simp] theorem State.enterFrame_stimulus : s.enterFrame.stimulus = s.stimulus := rfl

/-! `leaveFrame` -/

@[simp] theorem State.leaveFrame_inFrame : s.leaveFrame.inFrame = false := rfl
@[simp] theorem State.leaveFrame_bitCount : s.leaveFrame.bitCount = s.bitCount := rfl
@[simp] theorem State.leaveFrame_accumulator : s.leaveFrame.accumulator = s.accumulator := rfl
@[simp] theorem State.leaveFrame_lastEdgeTick : s.leaveFrame.lastEdgeTick = s.lastEdgeTick := rfl
@[simp] theorem State.leaveFrame_resStatus : s.leaveFrame.resStatus = s.resStatus := rfl
@[simp] theorem State.leaveFrame_resTemp : s.leaveFrame.resTemp = s.resTemp := rfl
@[simp] theorem State.leaveFrame_resHum : s.leaveFrame.resHum = s.resHum := rfl
@[simp] theorem State.leaveFrame_newData : s.leaveFrame.newData = s.newData := rfl
@[simp] theorem State.leaveFrame_done : s.leaveFrame.done = s.done := rfl
@[simp] theorem State.leaveFrame_stimulus : s.leaveFrame.stimulus = s.stimulus := rfl

/-! `setNewData` -/

@[simp] theorem State.setNewData_inFrame (b : Bool) : (s.setNewData b).inFrame = s.inFrame := rfl
@[simp] theorem State.setNewData_bitCount (b : Bool) : (s.setNewData b).bitCount = s.bitCount := rfl
@[simp] theorem State.setNewData_accumulator (b : Bool) : (s.setNewData b).accumulator = s.accumulator := rfl
@[simp] theorem State.setNewData_lastEdgeTick (b : Bool) : (s.setNewData b).lastEdgeTick = s.lastEdgeTick := rfl
@[simp] theorem State.setNewData_resStatus (b : Bool) : (s.setNewData b).resStatus = s.resStatus := rfl
@[simp] theorem State.setNewData_resTemp (b : Bool) : (s.setNewData b).resTemp = s.resTemp := rfl
@[simp] theorem State.setNewData_resHum (b : Bool) : (s.setNewData b).resHum = s.resHum := rfl
@[simp] theorem State.setNewData_newData (b : Bool) : (s.setNewData b).newData = b := rfl
@[simp] theorem State.setNewData_done (b : Bool) : (s.setNewData b).done = s.done := rfl
@[simp] theorem State.setNewData_stimulus (b : Bool) : (s.setNewData b).stimulus = s.stimulus := rfl

/-! `raiseDone` -/

@[simp] theorem State.raiseDone_inFrame : s.raiseDone.inFrame = s.inFrame := rfl
@[simp] theorem State.raiseDone_bitCount : s.raiseDone.bitCount = s.bitCount := rfl
@[simp] theorem State.raiseDone_accumulator : s.raiseDone.accumulator = s.accumulator := rfl
@[simp] theorem State.raiseDone_lastEdgeTick : s.raiseDone.lastEdgeTick = s.lastEdgeTick := rfl
@[simp] theorem State.raiseDone_resStatus : s.raiseDone.resStatus = s.resStatus := rfl
@[simp] theorem State.raiseDone_resTemp : s.raiseDone.resTemp = s.resTemp := rfl
@[simp] theorem State.raiseDone_resHum : s.raiseDone.resHum = s.resHum := rfl
@[simp] theorem State.raiseDone_newData : s.raiseDone.newData = s.newData := rfl
@[simp] theorem State.raiseDone_done : s.raiseDone.done = true := rfl
@[simp] theorem State.raiseDone_stimulus : s.raiseDone.stimulus = s.stimulus := rfl

/-! `dropDone` -/

@[simp] theorem State.dropDone_inFrame : s.dropDone.inFrame = s.inFrame := rfl
@[simp] theorem State.dropDone_bitCount : s.dropDone.bitCount = s.bitCount := rfl
@[simp] theorem State.dropDone_accumulator : s.dropDone.accumulator = s.accumulator := rfl
@[simp] theorem State.dropDone_lastEdgeTick : s.dropDone.lastEdgeTick = s.lastEdgeTick := rfl
@[simp] theorem State.dropDone_resStatus : s.dropDone.resStatus = s.resStatus := rfl
@[simp] theorem State.dropDone_resTemp : s.dropDone.resTemp = s.resTemp := rfl
@[simp] theorem State.dropDone_resHum : s.dropDone.resHum = s.resHum := rfl
@[simp] theorem State.dropDone_newData : s.dropDone.newData = s.newData := rfl
@[simp] theorem State.dropDone_done : s.dropDone.done = false := rfl
@[simp] theorem State.dropDone_stimulus : s.dropDone.stimulus = s.stimulus := rfl

/-! `recordTick` -/

@[simp] theorem State.recordTick_inFrame (t : Tick) : (s.recordTick t).inFrame = s.inFrame := rfl
@[simp] theorem State.recordTick_bitCount (t : Tick) : (s.recordTick t).bitCount = s.bitCount := rfl
@[simp] theorem State.recordTick_accumulator (t : Tick) : (s.recordTick t).accumulator = s.accumulator := rfl
@[simp] theorem State.recordTick_lastEdgeTick (t : Tick) : (s.recordTick t).lastEdgeTick = t := rfl
@[simp] theorem State.recordTick_resStatus (t : Tick) : (s.recordTick t).resStatus = s.resStatus := rfl
@[simp] theorem State.recordTick_resTemp (t : Tick) : (s.recordTick t).resTemp = s.resTemp := rfl
@[simp] theorem State.recordTick_resHum (t : Tick) : (s.recordTick t).resHum = s.resHum := rfl
@[simp] theorem State.recordTick_newData (t : Tick) : (s.recordTick t).newData = s.newData := rfl
@[simp] theorem State.recordTick_done (t : Tick) : (s.recordTick t).done = s.done := rfl
@[simp] theorem State.recordTick_stimulus (t : Tick) : (s.recordTick t).stimulus = s.stimulus := rfl

/-! `clearFrame` -/

@[simp] theorem State.clearFrame_inFrame : s.clearFrame.inFrame = s.inFrame := rfl
@[simp] theorem State.clearFrame_bitCount : s.clearFrame.bitCount = BitVec.ofInt 7 (-2) := rfl
@[simp] theorem State.clearFrame_accumulator : s.clearFrame.accumulator = 0 := rfl
@[simp] theorem State.clearFrame_lastEdgeTick : s.clearFrame.lastEdgeTick = s.lastEdgeTick := rfl
@[simp] theorem State.clearFrame_resStatus : s.clearFrame.resStatus = s.resStatus := rfl
@[simp] theorem State.clearFrame_resTemp : s.clearFrame.resTemp = s.resTemp := rfl
@[simp] theorem State.clearFrame_resHum : s.clearFrame.resHum = s.resHum := rfl
@[simp] theorem State.clearFrame_newData : s.clearFrame.newData = s.newData := rfl
@[simp] theorem State.clearFrame_done : s.clearFrame.done = s.done := rfl
@[simp] theorem State.clearFrame_stimulus : s.clearFrame.stimulus = s.stimulus := rfl

/-! `countSlot` -/

@[simp] theorem State.countSlot_inFrame : s.countSlot.inFrame = s.inFrame := rfl
@[simp] theorem State.countSlot_bitCount : s.countSlot.bitCount = s.bitCount + 1 := rfl
@[simp] theorem State.countSlot_accumulator : s.countSlot.accumulator = s.accumulator := rfl
@[simp] theorem State.countSlot_lastEdgeTick : s.countSlot.lastEdgeTick = s.lastEdgeTick := rfl
@[simp] theorem State.countSlot_resStatus : s.countSlot.resStatus = s.resStatus := rfl
@[simp] theorem State.countSlot_resTemp : s.countSlot.resTemp = s.resTemp := rfl
@[simp] theorem State.countSlot_resHum : s.countSlot.resHum = s.resHum := rfl
@[simp] theorem State.countSlot_newData : s.countSlot.newData = s.newData := rfl
@[simp] theorem State.countSlot_done : s.countSlot.done = s.done := rfl
@[simp] theorem State.countSlot_stimulus : s.countSlot.stimulus = s.stimulus := rfl

/-! `countLastSlot` -/

@[simp] theorem State.countLastSlot_inFrame : s.countLastSlot.inFrame = s.inFrame := rfl
@[simp] theorem State.countLastSlot_bitCount : s.countLastSlot.bitCount = 40#7 := rfl
@[simp] theorem State.countLastSlot_accumulator : s.countLastSlot.accumulator = s.accumulator := rfl
@[simp] theorem State.countLastSlot_lastEdgeTick : s.countLastSlot.lastEdgeTick = s.lastEdgeTick := rfl
@[simp] theorem State.countLastSlot_resStatus : s.countLastSlot.resStatus = s.resStatus := rfl
@[simp] theorem State.countLastSlot_resTemp : s.countLastSlot.resTemp = s.resTemp := rfl
@[simp] theorem State.countLastSlot_resHum : s.countLastSlot.resHum = s.resHum := rfl
@[simp] theorem State.countLastSlot_newData : s.countLastSlot.newData = s.newData := rfl
@[simp] theorem State.countLastSlot_done : s.countLastSlot.done = s.done := rfl
@[simp] theorem State.countLastSlot_stimulus : s.countLastSlot.stimulus = s.stimulus := rfl

/-! `shiftIn` -/

@[simp] theorem State.shiftIn_inFrame (b : Bool) : (s.shiftIn b).inFrame = s.inFrame := rfl
@[simp] theorem State.shiftIn_bitCount (b : Bool) : (s.shiftIn b).bitCount = s.bitCount := rfl
@[simp] theorem State.shiftIn_accumulator (b : Bool) : (s.shiftIn b).accumulator = if b then (s.accumulator <<< 1) ||| 1 else s.accumulator <<< 1 := rfl
@[simp] theorem State.shiftIn_lastEdgeTick (b : Bool) : (s.shiftIn b).lastEdgeTick = s.lastEdgeTick := rfl
@[simp] theorem State.shiftIn_resStatus (b : Bool) : (s.shiftIn b).resStatus = s.resStatus := rfl
@[simp] theorem State.shiftIn_resTemp (b : Bool) : (s.shiftIn b).resTemp = s.resTemp := rfl
@[simp] theorem State.shiftIn_resHum (b : Bool) : (s.shiftIn b).resHum = s.resHum := rfl
@[simp] theorem State.shiftIn_newData (b : Bool) : (s.shiftIn b).newData = s.newData := rfl
@[simp] theorem State.shiftIn_done (b : Bool) : (s.shiftIn b).done = s.done := rfl
@[simp] theorem State.shiftIn_stimulus (b : Bool) : (s.shiftIn b).stimulus = s.stimulus := rfl

/-! `setReading` -/

@[simp] theorem State.setReading_inFrame (r : Reading) : (s.setReading r).inFrame = s.inFrame := rfl
@[simp] theorem State.setReading_bitCount (r : Reading) : (s.setReading r).bitCount = s.bitCount := rfl
@[simp] theorem State.setReading_accumulator (r : Reading) : (s.setReading r).accumulator = s.accumulator := rfl
@[simp] theorem State.setReading_lastEdgeTick (r : Reading) : (s.setReading r).lastEdgeTick = s.lastEdgeTick := rfl
@[simp] theorem State.setReading_resStatus (r : Reading) : (s.setReading r).resStatus = r.status := rfl
@[simp] theorem State.setReading_resTemp (r : Reading) : (s.setReading r).resTemp = r.temp := rfl
@[simp] theorem State.setReading_resHum (r : Reading) : (s.setReading r).resHum = r.hum := rfl
@[simp] theorem State.setReading_newData (r : Reading) : (s.setReading r).newData = s.newData := rfl
@[simp] theorem State.setReading_done (r : Reading) : (s.setReading r).done = s.done := rfl
@[simp] theorem State.setReading_stimulus (r : Reading) : (s.setReading r).stimulus = s.stimulus := rfl

/-! `startRead` -/

@[simp] theorem State.startRead_inFrame : s.startRead.inFrame = s.inFrame := rfl
@[simp] theorem State.startRead_bitCount : s.startRead.bitCount = s.bitCount := rfl
@[simp] theorem State.startRead_accumulator : s.startRead.accumulator = s.accumulator := rfl
@[simp] theorem State.startRead_lastEdgeTick : s.startRead.lastEdgeTick = s.lastEdgeTick := rfl
@[simp] theorem State.startRead_resStatus : s.startRead.resStatus = .timeout := rfl
@[simp] theorem State.startRead_resTemp : s.startRead.resTemp = 0 := rfl
@[simp] theorem State.startRead_resHum : s.startRead.resHum = 0 := rfl
@[simp] theorem State.startRead_newData : s.startRead.newData = false := rfl
@[simp] theorem State.startRead_done : s.startRead.done = s.done := rfl
@[simp] theorem State.startRead_stimulus : s.startRead.stimulus = s.stimulus := rfl

/-! `completionWrite` -/

@[simp] theorem State.completionWrite_inFrame (r : Reading) : (s.completionWrite r).inFrame = s.inFrame := rfl
@[simp] theorem State.completionWrite_bitCount (r : Reading) : (s.completionWrite r).bitCount = s.bitCount := rfl
@[simp] theorem State.completionWrite_accumulator (r : Reading) : (s.completionWrite r).accumulator = s.accumulator := rfl
@[simp] theorem State.completionWrite_lastEdgeTick (r : Reading) : (s.completionWrite r).lastEdgeTick = s.lastEdgeTick := rfl
@[simp] theorem State.completionWrite_resStatus (r : Reading) : (s.completionWrite r).resStatus = r.status := rfl
@[simp] theorem State.completionWrite_resTemp (r : Reading) : (s.completionWrite r).resTemp = r.temp := rfl
@[simp] theorem State.completionWrite_resHum (r : Reading) : (s.completionWrite r).resHum = r.hum := rfl
@[simp] theorem State.completionWrite_newData (r : Reading) : (s.completionWrite r).newData = true := rfl
@[simp] theorem State.completionWrite_done (r : Reading) : (s.completionWrite r).done = true := rfl
@[simp] theorem State.completionWrite_stimulus (r : Reading) : (s.completionWrite r).stimulus = s.stimulus := rfl

/-! `resetAll` -/

@[simp] theorem State.resetAll_inFrame : s.resetAll.inFrame = false := rfl
@[simp] theorem State.resetAll_bitCount : s.resetAll.bitCount = 0 := rfl
@[simp] theorem State.resetAll_accumulator : s.resetAll.accumulator = 0 := rfl
@[simp] theorem State.resetAll_lastEdgeTick : s.resetAll.lastEdgeTick = 0 := rfl
@[simp] theorem State.resetAll_resStatus : s.resetAll.resStatus = .timeout := rfl
@[simp] theorem State.resetAll_resTemp : s.resetAll.resTemp = 0 := rfl
@[simp] theorem State.resetAll_resHum : s.resetAll.resHum = 0 := rfl
@[simp] theorem State.resetAll_newData : s.resetAll.newData = false := rfl
@[simp] theorem State.resetAll_done : s.resetAll.done = false := rfl
@[simp] theorem State.resetAll_stimulus : s.resetAll.stimulus = s.stimulus := rfl

/-! `view` -/

@[simp] theorem State.view_inFrame : s.view.inFrame = s.inFrame := rfl
@[simp] theorem State.view_bitCount : s.view.bitCount = s.bitCount := rfl
@[simp] theorem State.view_lastEdgeTick : s.view.lastEdgeTick = s.lastEdgeTick := rfl
@[simp] theorem State.view_dropDone : s.dropDone.view = s.view := rfl

end Sys2Proof.Machine
end

