-- ==== Sys2Proof/Laws/Encoding.lean ====
section
/-! SUPPORT. Facts about the encodings that every later proof needs: variant codes, the inputs a stimulus word
stands for, the word of given inputs, and the interval as a number. -/

namespace Sys2Proof

@[simp] theorem Variant.ofCode_code (v : Variant) : Variant.ofCode v.code = v := by cases v <;> rfl

@[simp] theorem Variant.code_ofCode (c : BitVec 2) : (Variant.ofCode c).code = c := by
  revert c; decide

theorem wordOfInputs_variant (x : Inputs) : (wordOfInputs x).extractLsb' 36 2 = x.variant.code := by
  ext i hi
  simp [wordOfInputs]
  have : i = 0 ∨ i = 1 := by omega
  rcases this with rfl | rfl <;> simp
theorem wordOfInputs_edgeTick (x : Inputs) : (wordOfInputs x).extractLsb' 0 32 = x.edgeTick := by
  ext i hi
  have h : ∀ k, 32 ≤ k → i < k := by omega
  simp [wordOfInputs, hi, h]
theorem wordOfInputs_rst (x : Inputs) : (wordOfInputs x).getLsbD 35 = x.rst := by
  simp [wordOfInputs]
theorem wordOfInputs_attach (x : Inputs) : (wordOfInputs x).getLsbD 34 = x.attach := by
  simp [wordOfInputs]
theorem wordOfInputs_arm (x : Inputs) : (wordOfInputs x).getLsbD 33 = x.arm := by
  simp [wordOfInputs]
theorem wordOfInputs_edgeValid (x : Inputs) : (wordOfInputs x).getLsbD 32 = x.edgeValid := by
  simp [wordOfInputs]
@[simp] theorem inputsOf_wordOfInputs (x : Inputs) : inputsOf (wordOfInputs x) = x := by
  simp only [inputsOf, wordOfInputs_variant, wordOfInputs_edgeTick, wordOfInputs_rst, wordOfInputs_attach, wordOfInputs_arm, wordOfInputs_edgeValid, Variant.ofCode_code]

@[simp] theorem wordOfInputs_inputsOf (w : StimulusWord) : wordOfInputs (inputsOf w) = w := by
  apply BitVec.eq_of_getLsbD_eq
  intro i hi
  simp only [wordOfInputs, inputsOf, Variant.code_ofCode, BitVec.getLsbD_or, BitVec.getLsbD_shiftLeft,
    BitVec.getLsbD_setWidth, BitVec.getLsbD_extractLsb', BitVec.getLsbD_ofBool]
  by_cases h : i < 32
  · have h5 : i < 35 := by omega
    have h4 : i < 34 := by omega
    have h3 : i < 33 := by omega
    have h6 : i < 36 := by omega
    simp only [h, h3, h4, h5, h6, hi, decide_true, Bool.not_true, Bool.and_false, Bool.false_and, Bool.false_or, Bool.true_and, Nat.zero_add]
  · have : i = 32 ∨ i = 33 ∨ i = 34 ∨ i = 35 ∨ i = 36 ∨ i = 37 := by omega
    rcases this with rfl | rfl | rfl | rfl | rfl | rfl <;> simp

/-- The control vector of a word of inputs: `{rst, attach, arm, edge_valid}` (R70). -/
theorem controlVector_wordOfInputs (x : Inputs) :
    (controlVector (wordOfInputs x)).toNat
      = 8 * x.rst.toNat + 4 * x.attach.toNat + 2 * x.arm.toNat + x.edgeValid.toNat := by
  have bits : controlVector (wordOfInputs x)
      = BitVec.ofBool x.rst ++ (BitVec.ofBool x.attach ++ (BitVec.ofBool x.arm ++ BitVec.ofBool x.edgeValid)) := by
    apply BitVec.eq_of_getLsbD_eq
    intro i hi
    have : i = 0 ∨ i = 1 ∨ i = 2 ∨ i = 3 := by omega
    rcases this with rfl | rfl | rfl | rfl <;> simp [controlVector, wordOfInputs] <;>
      cases x.rst <;> cases x.attach <;> cases x.arm <;> cases x.edgeValid <;> rfl
  rw [bits]
  cases x.rst <;> cases x.attach <;> cases x.arm <;> cases x.edgeValid <;> rfl

/-- The interval of R101 as a number. -/
theorem interval_toNat (last tick : Tick) :
    (interval last tick).toNat = (tick.toNat + 4294967296 - last.toNat) % 4294967296 := by
  simp only [interval, BitVec.toNat_sub]
  have h1 := last.isLt
  congr 1
  omega

theorem View.intervalTo_eq (v : View) (t : Tick) : v.intervalTo t = (interval v.lastEdgeTick t).toNat := by
  rw [interval_toNat, View.intervalTo]

/-- The class of an interval by its range (R73). -/
theorem intervalClass_cases (iv : Tick) :
    (intervalClass iv = .gap ∧ 10000 < iv.toNat) ∨
    (intervalClass iv = .bit1 ∧ 100 < iv.toNat ∧ iv.toNat ≤ 150) ∨
    (intervalClass iv = .bit0 ∧ 60 ≤ iv.toNat ∧ iv.toNat ≤ 100) ∨
    (intervalClass iv = .bad ∧ (iv.toNat < 60 ∨ 150 < iv.toNat) ∧ iv.toNat ≤ 10000) := by
  unfold intervalClass
  dsimp only [Config.block]
  by_cases h1 : 10000 < iv.toNat
  · simp [h1]
  by_cases h2 : 60 ≤ iv.toNat ∧ iv.toNat ≤ 150
  · by_cases h3 : 100 < iv.toNat
    · simp [h1, h2, h3]
    · simp [h1, h2, h3]; omega
  · simp [h1, h2]; omega

/-- Everything `selectEdge` can answer, with what made it so. -/
theorem selectEdge_cases (v : View) (t : Tick) :
    (selectEdge v t = .edgeStart t ∧ 10000 < (interval v.lastEdgeTick t).toNat) ∨
    ((interval v.lastEdgeTick t).toNat ≤ 10000 ∧
      ((selectEdge v t = .edgeIgnore t ∧ v.inFrame = false) ∨
       (v.inFrame = true ∧
        ((selectEdge v t = .edgeDiscard t ∧ v.slot ≤ 0) ∨
         (0 < v.slot ∧
          ((selectEdge v t = .edgeViolation t ∧
              ((interval v.lastEdgeTick t).toNat < 60 ∨ 150 < (interval v.lastEdgeTick t).toNat)) ∨
           (60 ≤ (interval v.lastEdgeTick t).toNat ∧ (interval v.lastEdgeTick t).toNat ≤ 100 ∧
              ((selectEdge v t = .edgeComplete0 t ∧ v.slot = 40) ∨ (selectEdge v t = .edgeData0 t ∧ v.slot ≠ 40))) ∨
           (100 < (interval v.lastEdgeTick t).toNat ∧ (interval v.lastEdgeTick t).toNat ≤ 150 ∧
              ((selectEdge v t = .edgeComplete1 t ∧ v.slot = 40) ∨
               (selectEdge v t = .edgeData1 t ∧ v.slot ≠ 40))))))))) := by
  unfold selectEdge
  obtain ⟨h, hg⟩ | ⟨h, h1⟩ | ⟨h, h0⟩ | ⟨h, hb⟩ := intervalClass_cases (interval v.lastEdgeTick t)
  · simp [h, hg]
  all_goals
    cases hf : v.inFrame
    · simp [h]; omega
    · by_cases hs : v.slot ≤ 0
      · simp [h, hs]; omega
      · by_cases h40 : v.slot = 40
        · simp [h, h40, selectData]; omega
        · simp [h, hs, h40, selectData]; omega

end Sys2Proof
end

