-- ==== Sys2Proof/Laws/Operands.lean ====
section
/-! SUPPORT. The interpreter's operands as numbers: bytes, the checksum, the DHTXX quantities, and when each decoder
accepts a frame. -/

namespace Sys2Proof.Machine

variable (f : Frame)

theorem byte0_toNat : (byte0 f).toNat = Reference.byte f 0 := by
  simp [Reference.byte, byte0, Nat.shiftRight_eq_div_pow]
theorem byte1_toNat : (byte1 f).toNat = Reference.byte f 1 := by
  simp [Reference.byte, byte1, Nat.shiftRight_eq_div_pow]
theorem byte2_toNat : (byte2 f).toNat = Reference.byte f 2 := by
  simp [Reference.byte, byte2, Nat.shiftRight_eq_div_pow]
theorem byte3_toNat : (byte3 f).toNat = Reference.byte f 3 := by
  simp [Reference.byte, byte3, Nat.shiftRight_eq_div_pow]
theorem byte4_toNat : (byte4 f).toNat = Reference.byte f 4 := by
  simp [Reference.byte, byte4, Nat.shiftRight_eq_div_pow]

/-- The checksum of R132 on numbers. -/
theorem checksumPasses_iff :
    checksumPasses f = true ↔
      (Reference.byte f 1 + Reference.byte f 2 + Reference.byte f 3 + Reference.byte f 4) % 256 = Reference.byte f 0 := by
  rw [← byte0_toNat, ← byte1_toNat, ← byte2_toNat, ← byte3_toNat, ← byte4_toNat]
  simp only [checksumPasses, checksum, decide_eq_true_eq, ← BitVec.toNat_inj, BitVec.toNat_add]
  omega

theorem wholeUnits_toNat (b : Byte) : (wholeUnits b).toNat = 10 * b.toNat := by
  have := b.isLt
  simp [wholeUnits]; omega

theorem wholeUnits_toInt (b : Byte) : (wholeUnits b).toInt = 10 * b.toNat := by
  have := b.isLt
  rw [BitVec.toInt_eq_toNat_of_lt (by rw [wholeUnits_toNat]; omega), wholeUnits_toNat]; simp

theorem dhtxxMagnitude_toNat : (dhtxxMagnitude f).toNat = (byte2 f).toNat % 128 * 256 + (byte1 f).toNat := by
  have h1 := (byte1 f).isLt
  have h2 := (byte2 f).isLt
  unfold dhtxxMagnitude
  generalize byte1 f = a at *
  generalize byte2 f = b at *
  have e : ((b &&& 0x7F#8).setWidth 15 <<< 8 : BitVec 15).toNat = (b.toNat % 128) * 2 ^ 8 := by
    rw [BitVec.toNat_shiftLeft, BitVec.toNat_setWidth_of_le (by omega), BitVec.toNat_and, Nat.shiftLeft_eq,
      show (127#8).toNat = 2 ^ 7 - 1 from rfl, Nat.and_two_pow_sub_one_eq_mod]
    omega
  rw [BitVec.toNat_or, e, BitVec.toNat_setWidth_of_le (by omega), ← Nat.shiftLeft_eq,
    ← Nat.shiftLeft_add_eq_or_of_lt h1, Nat.shiftLeft_eq]

theorem dhtxxHumidity_toNat : (dhtxxHumidity f).toNat = (byte4 f).toNat * 256 + (byte3 f).toNat := by
  have h1 := (byte3 f).isLt
  have h2 := (byte4 f).isLt
  unfold dhtxxHumidity
  generalize byte3 f = a at *
  generalize byte4 f = b at *
  have e : (b.setWidth 16 <<< 8 : BitVec 16).toNat = b.toNat * 2 ^ 8 := by
    rw [BitVec.toNat_shiftLeft, BitVec.toNat_setWidth_of_le (by omega), Nat.shiftLeft_eq]
    omega
  rw [BitVec.toNat_or, e, BitVec.toNat_setWidth_of_le (by omega), ← Nat.shiftLeft_eq,
    ← Nat.shiftLeft_add_eq_or_of_lt h1, Nat.shiftLeft_eq]

/-- The sign bit of R135, on the byte as a number. -/
theorem byte2_sign : (byte2 f).getLsbD 7 = decide (128 ≤ (byte2 f).toNat) := by
  generalize byte2 f = b
  revert b
  decide

theorem dhtxxTemperature_eq :
    dhtxxTemperature f =
      if 128 ≤ (byte2 f).toNat then -((((byte2 f).toNat - 128) * 256 + (byte1 f).toNat : Nat) : Int)
      else (((byte2 f).toNat * 256 + (byte1 f).toNat : Nat) : Int) := by
  have h2 := (byte2 f).isLt
  unfold dhtxxTemperature
  rw [byte2_sign, dhtxxMagnitude_toNat]
  by_cases h : 128 ≤ (byte2 f).toNat
  · simp only [h, decide_true, if_true, show (byte2 f).toNat % 128 = (byte2 f).toNat - 128 by omega]
  · simp only [h, decide_false, if_false, Bool.false_eq_true, show (byte2 f).toNat % 128 = (byte2 f).toNat by omega]

theorem byte_eq_zero_iff (b : Byte) : b = 0#8 ↔ b.toNat = 0 := by
  revert b
  decide

/-- When DHT11 accepts a frame (R134). -/
theorem decodeDht11_valid_iff :
    (decodeDht11 f).valid = true ↔
      (byte1 f).toNat = 0 ∧ (byte3 f).toNat = 0 ∧ (byte2 f).toNat ≤ 60 ∧ 9 ≤ (byte4 f).toNat ∧ (byte4 f).toNat ≤ 90 := by
  simp [decodeDht11, byte_eq_zero_iff, and_assoc]

/-- When DHTXX accepts a frame (R135). -/
theorem decodeDhtxx_valid_iff :
    (decodeDhtxx f).valid = true ↔
      (byte4 f).toNat * 256 + (byte3 f).toNat ≤ 1100 ∧ -500 ≤ dhtxxTemperature f ∧ dhtxxTemperature f ≤ 1350 := by
  simp [decodeDhtxx, dhtxxHumidity_toNat, and_assoc]

end Sys2Proof.Machine
end

