-- ==== Sys2Proof/Laws/PerInstr.lean ====
section
/-! SUPPORT. The statements made per operation. `TableRow`: the stimulus word of an operation's own inputs matches that
operation's row of `spec/opcode_table.json` (30_encoding.md R71, R76). -/

namespace Sys2Proof.Laws.TableRow

def Statement (i : Instr) : Prop := i.row.hit (wordOfInputs i.controls) = true

/-- A row over the control vector is matched through its four inputs. -/
theorem hit_cv (pattern mask : Nat) (x : Inputs) :
    TableRow.hit ⟨.cv, pattern, mask⟩ (wordOfInputs x)
      = decide ((8 * x.rst.toNat + 4 * x.attach.toNat + 2 * x.arm.toNat + x.edgeValid.toNat) &&& mask = pattern) := by
  rw [TableRow.hit, RowFormat.field, controlVector_wordOfInputs]

/-- A row over the variant code is matched through it. -/
theorem hit_variant (pattern mask : Nat) (x : Inputs) :
    TableRow.hit ⟨.variant, pattern, mask⟩ (wordOfInputs x) = decide (x.variant.code.toNat &&& mask = pattern) := by
  rw [TableRow.hit, RowFormat.field, wordOfInputs_variant]

theorem reset : Statement .reset := by simp [Statement, Instr.row, hit_cv, Instr.controls]
theorem detach : Statement .detach := by simp [Statement, Instr.row, hit_cv, Instr.controls]
theorem idle : Statement .idle := by simp [Statement, Instr.row, hit_cv, Instr.controls]
theorem arm : Statement .arm := by simp [Statement, Instr.row, hit_cv, Instr.controls]
theorem edgeStart (t : Tick) : Statement (.edgeStart t) := by simp [Statement, Instr.row, hit_cv, Instr.controls]
theorem edgeIgnore (t : Tick) : Statement (.edgeIgnore t) := by simp [Statement, Instr.row, hit_cv, Instr.controls]
theorem edgeDiscard (t : Tick) : Statement (.edgeDiscard t) := by simp [Statement, Instr.row, hit_cv, Instr.controls]
theorem edgeData0 (t : Tick) : Statement (.edgeData0 t) := by simp [Statement, Instr.row, hit_cv, Instr.controls]
theorem edgeData1 (t : Tick) : Statement (.edgeData1 t) := by simp [Statement, Instr.row, hit_cv, Instr.controls]
theorem edgeViolation (t : Tick) : Statement (.edgeViolation t) := by simp [Statement, Instr.row, hit_cv, Instr.controls]
theorem edgeComplete0 (t : Tick) : Statement (.edgeComplete0 t) := by simp [Statement, Instr.row, hit_cv, Instr.controls]
theorem edgeComplete1 (t : Tick) : Statement (.edgeComplete1 t) := by simp [Statement, Instr.row, hit_cv, Instr.controls]
theorem interpretAuto : Statement .interpretAuto := by rw [Statement, Instr.row, hit_variant]; rfl
theorem interpretDht11 : Statement .interpretDht11 := by rw [Statement, Instr.row, hit_variant]; rfl
theorem interpretDhtxx : Statement .interpretDhtxx := by rw [Statement, Instr.row, hit_variant]; rfl
theorem interpretReserved : Statement .interpretReserved := by rw [Statement, Instr.row, hit_variant]; rfl

end Sys2Proof.Laws.TableRow
end

