-- ==== Sys2Proof/Laws/Step.lean ====
section
/-! SUPPORT. What a cycle and a step can do, said once: no operation stops, none touches the pending stimulus, a
step on a pending word runs the operations of its inputs, and a step with none holds the state. -/

namespace Sys2Proof.Machine

variable {s t : State} {x : Inputs} {w : StimulusWord} {rest : List StimulusWord}

/-- Every operation answers a next state and leaves the pending stimulus alone. -/
theorem exec_next (i : Instr) (s : State) : ∃ t : State, exec i s = .next t ∧ t.stimulus = s.stimulus := by
  cases i <;> exact ⟨_, rfl, rfl⟩

/-- ARM leaves the decoder state and `done` alone. -/
theorem exec_arm_decoder (s : State) : ∃ t : State, exec .arm s = .next t ∧ SameDecoder s t ∧ t.done = s.done :=
  ⟨_, rfl, ⟨rfl, rfl, rfl, rfl⟩, rfl⟩

/-- An INTERPRET row leaves the decoder state alone and raises both flags of the result register. -/
theorem exec_interpret_decoder (s : State) (v : Variant) :
    ∃ t : State, exec (interpretRow v) s = .next t ∧ SameDecoder s t ∧ t.newData = true ∧ t.done = true := by
  cases v <;> exact ⟨_, rfl, ⟨rfl, rfl, rfl, rfl⟩, rfl, rfl⟩

@[simp] theorem thenExec_none (s : State) : thenExec (.next s) none = .next s := rfl
@[simp] theorem thenExec_some (s : State) (i : Instr) : thenExec (.next s) (some i) = exec i s := rfl

theorem runCycle_next (c : Cycle) (s : State) : ∃ t : State, runCycle c s = .next t ∧ t.stimulus = s.stimulus := by
  obtain ⟨u, hu, hs⟩ := exec_next c.primary s.dropDone
  unfold runCycle
  rw [hu]
  cases h : c.result with
  | none => exact ⟨u, rfl, hs⟩
  | some i =>
    obtain ⟨t, ht, hst⟩ := exec_next i u
    exact ⟨t, ht, hst.trans hs⟩

theorem step_nil (h : s.stimulus = []) : step s = .next s := by
  unfold step; rw [h]

theorem step_cons (h : s.stimulus = w :: rest) : step s = sample w { s with stimulus := rest } := by
  unfold step; rw [h]

/-- A step on a pending cycle runs the operations its inputs select. -/
theorem step_of_samples (h : Samples s x rest) :
    step s = runCycle (decodeInputs s.view x) { s with stimulus := rest } := by
  rw [step_cons h, sample, decode, inputsOf_wordOfInputs]; rfl

/-- A pending word is the word of its inputs. -/
theorem samples_of_cons (h : s.stimulus = w :: rest) : Samples s (inputsOf w) rest := by
  simp [Samples, h]

theorem step_next (s : State) : ∃ t : State, step s = .next t ∧ t.stimulus = s.stimulus.tail := by
  cases h : s.stimulus with
  | nil => exact ⟨s, step_nil h, h⟩
  | cons w rest =>
    obtain ⟨t, ht, hs⟩ := runCycle_next (decode s.view w) { s with stimulus := rest }
    exact ⟨t, by rw [step_cons h, sample]; exact ht, hs⟩

/-! ### EDGE cycles -/

/-- In an EDGE cycle the primary operation is the EDGE row chosen. -/
theorem primaryOf_edge {v : View} (h : IsEdge x) : primaryOf v x = selectEdge v x.edgeTick := by
  obtain ⟨h1, h2, h3⟩ := h
  simp [primaryOf, h1, h2, h3]

theorem decode_primary (s : State) (x : Inputs) : (decode s.view (wordOfInputs x)).primary = primaryOf s.view x := by
  simp [decode, decodeInputs]

/-- A step in an EDGE cycle runs the row chosen, and what follows it leaves the decoder state alone. -/
theorem step_edge (hx : IsEdge x) (h : Samples s x rest) :
    ∃ u t : State, exec (selectEdge s.view x.edgeTick) { s with stimulus := rest, done := false } = .next u ∧
      step s = .next t ∧ SameDecoder u t := by
  rw [step_of_samples h]
  obtain ⟨u, hu, -⟩ := exec_next (selectEdge s.view x.edgeTick) { s with stimulus := rest, done := false }
  refine ⟨u, ?_⟩
  have hu' : exec (selectEdge s.view x.edgeTick) (State.dropDone { s with stimulus := rest }) = .next u := hu
  simp only [hu, runCycle, decodeInputs, primaryOf_edge hx, hu', resultOf]
  split_ifs
  · exact ⟨u, trivial, rfl, rfl, rfl, rfl, rfl⟩
  · exact ⟨_, trivial, rfl, rfl, rfl, rfl, rfl⟩
  · obtain ⟨t, ht, h2, -⟩ := exec_interpret_decoder u x.variant
    exact ⟨t, trivial, ht, h2⟩
  · exact ⟨u, trivial, rfl, rfl, rfl, rfl, rfl⟩

/-- An EDGE cycle without ARM whose row completes nothing is that row alone. -/
theorem step_edge_alone (hx : IsEdge x) (ha : x.arm = false) (h : Samples s x rest) {i : Instr}
    (hi : selectEdge s.view x.edgeTick = i) (hc : i.completes = false) :
    step s = exec i { s with stimulus := rest, done := false } := by
  rw [step_of_samples h]
  obtain ⟨u, hu, -⟩ := exec_next i { s with stimulus := rest, done := false }
  simp only [decodeInputs, primaryOf_edge hx, hi, resultOf, hx.1, ha, hc, runCycle]
  show thenExec (exec i { s with stimulus := rest, done := false }) none = _
  rw [hu]; rfl

/-! ### Runs -/

@[simp] theorem run_zero (s : State) : run 0 s = .next s := rfl

theorem run_succ (h : step s = .next t) (n : Nat) : run (n + 1) s = run n t := by
  simp [run, h]

/-- The steps of a run can be split. -/
theorem run_add (m n : Nat) (h : run m s = .next t) : run (m + n) s = run n t := by
  induction m generalizing s with
  | zero => cases h; simp
  | succ m ih =>
    obtain ⟨u, hu, -⟩ := step_next s
    rw [run_succ hu] at h
    rw [Nat.add_right_comm, run_succ hu, ih h]

end Sys2Proof.Machine
end

