-- ==== Sys2Proof/Tests/Slice0.lean ====
section
/-! SUPPORT. Tests and witnesses. Expected values are those of `spec/95_test_vectors.md` (its vector names are cited: E1,
H1, I1, R-1, P1 ...) or of a rule's own example; none was computed by the model. The `witness_` theorems show that
the hypotheses of the statements in `Certificates/Slice0/Obligations.lean` can be met, at the boundary values of
their clauses. -/

namespace Sys2Proof.Tests

open Sys2Proof.Machine

/-! ### Helpers -/

/-- Decoder state `(in_frame, bit_count, accumulator, last_edge_tick)`, the rest as after reset. -/
def dec (f : Bool) (bc : Int) (acc lt : Nat) : State :=
  { State.reset with inFrame := f, bitCount := BitVec.ofInt 7 bc, accumulator := BitVec.ofNat 40 acc,
                     lastEdgeTick := BitVec.ofNat 32 lt }

/-- An attached edge. -/
def edge (t : Tick) : Inputs := { attach := true, edgeValid := true, edgeTick := t }

/-- An attached edge with ARM. -/
def armEdge (t : Tick) : Inputs := { attach := true, arm := true, edgeValid := true, edgeTick := t }

/-- `x` is sampled next, and nothing after it. -/
def presenting (x : Inputs) (s : State) : State := { s with stimulus := [wordOfInputs x] }

/-- The decoder state of an outcome, as numbers. -/
def decoderOf : Host.Outcome State Fault Refusal → Option (Bool × Int × Nat × Nat)
  | .next s => some (s.inFrame, s.bitCount.toInt, s.accumulator.toNat, s.lastEdgeTick.toNat)
  | _ => none

/-- The result register of an outcome, as numbers. -/
def readingOf : Host.Outcome State Fault Refusal → Option (Status × Int × Nat × Bool × Bool)
  | .next s => some (s.resStatus, s.resTemp.toInt, s.resHum.toNat, s.newData, s.done)
  | _ => none

/-- The start state of section 2.7: a reading stored, and a frame in progress. -/
def hostStart : State :=
  { dec true 10 0x3FF 0xBB8 with resStatus := .good, resTemp := 253, resHum := 487, newData := true, done := true }

/-- The start state of section 2.4: one data bit short of a frame. -/
def lastSlot : State := dec true 39 0x00F3807EF2 2000

/-- A state whose completed frame is `f`. -/
def holding (f : Nat) : State := dec false 40 f 0

/-! ### Well-formedness: an ill-formed term for each check -/

theorem test_wf_arm_is_no_primary : Cycle.wellFormed ⟨true, 5#7, 0⟩ ⟨.arm, none⟩ = false := by decide
theorem test_wf_interpret_is_no_primary : Cycle.wellFormed ⟨true, 5#7, 0⟩ ⟨.interpretAuto, none⟩ = false := by decide
theorem test_wf_reset_takes_no_arm : Cycle.wellFormed ⟨true, 5#7, 0⟩ ⟨.reset, some .arm⟩ = false := by decide
theorem test_wf_interpret_needs_completion :
    Cycle.wellFormed ⟨true, 5#7, 0⟩ ⟨.idle, some .interpretAuto⟩ = false := by decide
theorem test_wf_completion_is_taken_up :
    Cycle.wellFormed ⟨true, 39#7, 0⟩ ⟨.edgeComplete0 76#32, none⟩ = false := by decide
theorem test_wf_result_is_no_primary : Cycle.wellFormed ⟨true, 5#7, 0⟩ ⟨.idle, some .detach⟩ = false := by decide
theorem test_wf_start_needs_gap : Cycle.wellFormed ⟨true, 5#7, 0⟩ ⟨.edgeStart 10000#32, none⟩ = false := by decide
theorem test_wf_ignore_needs_no_frame : Cycle.wellFormed ⟨true, 5#7, 0⟩ ⟨.edgeIgnore 80#32, none⟩ = false := by decide
theorem test_wf_discard_needs_slot : Cycle.wellFormed ⟨true, 0#7, 0⟩ ⟨.edgeDiscard 80#32, none⟩ = false := by decide
theorem test_wf_data0_needs_interval : Cycle.wellFormed ⟨true, 5#7, 0⟩ ⟨.edgeData0 101#32, none⟩ = false := by decide
theorem test_wf_data1_needs_slot : Cycle.wellFormed ⟨true, 39#7, 0⟩ ⟨.edgeData1 101#32, none⟩ = false := by decide
theorem test_wf_violation_needs_bad_interval :
    Cycle.wellFormed ⟨true, 5#7, 0⟩ ⟨.edgeViolation 60#32, none⟩ = false := by decide
theorem test_wf_complete0_needs_slot_40 :
    Cycle.wellFormed ⟨true, 38#7, 0⟩ ⟨.edgeComplete0 60#32, some .arm⟩ = false := by decide
theorem test_wf_complete1_needs_interval :
    Cycle.wellFormed ⟨true, 39#7, 0⟩ ⟨.edgeComplete1 100#32, some .interpretAuto⟩ = false := by decide
theorem test_wf_unreachable_views : View.reachable ⟨true, 40#7, 0⟩ = false ∧ View.reachable ⟨true, BitVec.ofInt 7 (-3), 0⟩ = false := by
  decide
theorem test_wf_bitsn_counts : PStmt.wellFormed (.bitsN 0 0) = false ∧ PStmt.wellFormed (.bitsN 0 41) = false := by decide

/-! ### Words: written out from R81 (variant, CV, tick), most of them in the programs P1 to P4 -/

/-- P1 cycles 0, 1 and 2: variant DHT11 with CV 1000, 0100 and 0110. -/
theorem test_words_host :
    decode View.afterReset 0x1800000000#38 = ⟨.reset, none⟩ ∧
    decode View.afterReset 0x1400000000#38 = ⟨.idle, none⟩ ∧
    decode View.afterReset 0x1600000000#38 = ⟨.idle, some .arm⟩ := by decide
/-- P4 cycles 51 and 52: variant DHTXX, detached without and with an edge presented. -/
theorem test_words_detach :
    decode ⟨true, 2#7, 0x9DBE#32⟩ 0x2000000000#38 = ⟨.detach, none⟩ ∧
    decode ⟨false, 2#7, 0x9DBE#32⟩ 0x2100009E34#38 = ⟨.detach, none⟩ := by decide
/-- P1 cycles 3, 4, 6 and 7. -/
theorem test_words_edge_in_frame :
    decode View.afterReset 0x1500004E20#38 = ⟨.edgeStart 20000#32, none⟩ ∧
    decode ⟨true, BitVec.ofInt 7 (-2), 0x4E20#32⟩ 0x1500004E84#38 = ⟨.edgeDiscard 0x4E84#32, none⟩ ∧
    decode ⟨true, 0#7, 0x4F06#32⟩ 0x1500004F52#38 = ⟨.edgeData0 0x4F52#32, none⟩ ∧
    decode ⟨true, 1#7, 0x4F52#32⟩ 0x1500004FCA#38 = ⟨.edgeData1 0x4FCA#32, none⟩ := by decide
/-- P3 cycle 9, the abort (15430 + 200 = 0x3D0E), and an ignored edge after it. -/
theorem test_words_edge_abort :
    decode ⟨true, 3#7, 15430#32⟩ 0x0500003D0E#38 = ⟨.edgeViolation 0x3D0E#32, none⟩ ∧
    decode ⟨false, 4#7, 0x3D0E#32⟩ 0x0500003D5E#38 = ⟨.edgeIgnore 0x3D5E#32, none⟩ := by decide
/-- P1 cycle 45, P3 cycle 54, P4 cycles 98 and 44: completions under DHT11, AUTO, DHTXX, and with ARM. -/
theorem test_words_complete :
    decode ⟨true, 39#7, 0x5CAA#32⟩ 0x1500005CF6#38 = ⟨.edgeComplete0 0x5CF6#32, some .interpretDht11⟩ ∧
    decode ⟨true, 39#7, 0x8792#32⟩ 0x050000880A#38 = ⟨.edgeComplete1 0x880A#32, some .interpretAuto⟩ ∧
    decode ⟨true, 39#7, 0xF9F2#32⟩ 0x250000FA3E#38 = ⟨.edgeComplete0 0xFA3E#32, some .interpretDhtxx⟩ ∧
    decode ⟨true, 39#7, 0x5DB2#32⟩ 0x2700005E2A#38 = ⟨.edgeComplete1 0x5E2A#32, some .arm⟩ := by decide
/-- Variant code 0b11 (R76): top hex digit 3. -/
theorem test_words_reserved_variant :
    decode ⟨true, 39#7, 0#32⟩ 0x350000004C#38 = ⟨.edgeComplete0 76#32, some .interpretReserved⟩ := by decide
/-- Ten hex digits as five bytes, and what is no stimulus word. -/
theorem test_bytes :
    decodeBytes View.afterReset [0x15, 0x00, 0x00, 0x4E, 0x20, 0xFF] = .ok (⟨.edgeStart 20000#32, none⟩, [0xFF]) ∧
    decodeBytes View.afterReset [0x15, 0x00, 0x00, 0x4E] = .error .tooShort ∧
    decodeBytes View.afterReset [0x40, 0x00, 0x00, 0x00, 0x00] = .error .notAStimulusWord := by decide
/-- The classes of R73 at their ends. -/
theorem test_interval_classes :
    [0#32, 59#32, 60#32, 100#32, 101#32, 150#32, 151#32, 10000#32, 10001#32, 0xFFFFFFFF#32].map intervalClass
      = [.bad, .bad, .bit0, .bit0, .bit1, .bit1, .bad, .bad, .gap, .gap] := by decide
/-- R101's example. -/
theorem test_interval_wraps : interval 0xFFFFFFF0#32 0x40#32 = 80#32 := by decide

/-! ### The host's table words -/

theorem test_table_words :
    decodeTableWord 8 8 = some .reset ∧ decodeTableWord 8 0 = some .detach ∧ decodeTableWord 8 4 = some .idle ∧
    decodeTableWord 8 2 = some .arm ∧ decodeTableWord 8 5 = some (.edgeIgnore 0) ∧
    decodeTableWord 2 1 = some .interpretDht11 := by decide
/-- The word is run by the very next step: RESET clears a stored reading, ARM makes it TIMEOUT. -/
theorem test_fetch_words :
    readingOf (step (hostStart.withFetchWord 8 8)) = some (.timeout, 0, 0, false, false) ∧
    readingOf (step (hostStart.withFetchWord 8 2)) = some (.timeout, 0, 0, false, false) ∧
    readingOf (step (hostStart.withFetchWord 8 4)) = some (.good, 253, 487, true, false) :=
  ⟨by decide, by decide, by decide⟩
/-- A VARIANT word is run by a completion: a frame of zeros is 0, 0 under DHTXX (I17). -/
theorem test_fetch_variant :
    readingOf (step (State.reset.withFetchWord 2 2)) = some (.good, 0, 0, true, true) := by decide

/-! ### One step: the host operations (section 2.7) -/

/-- H7: reset overrides edge and ARM. -/
theorem test_reset : decoderOf (step (presenting { rst := true, arm := true, edgeValid := true } hostStart))
    = some (false, 0, 0, 0) := by decide
/-- R-1. -/
theorem test_reset_reading : readingOf (step (presenting { rst := true } hostStart))
    = some (.timeout, 0, 0, false, false) := by decide
/-- H5: the presented edge is not processed. -/
theorem test_detach : decoderOf (step (presenting { edgeValid := true, edgeTick := 3076 } hostStart))
    = some (false, 10, 0x3FF, 0xBB8) := by decide
/-- H6: detach with ARM. -/
theorem test_detach_arm : readingOf (step (presenting { arm := true, edgeValid := true, edgeTick := 3076 } hostStart))
    = some (.timeout, 0, 0, false, false) := by decide
/-- H1. -/
theorem test_idle : decoderOf (step (presenting { attach := true } hostStart)) = some (true, 10, 0x3FF, 0xBB8) ∧
    readingOf (step (presenting { attach := true } hostStart)) = some (.good, 253, 487, true, false) := by decide
/-- H2. -/
theorem test_arm : decoderOf (step (presenting { attach := true, arm := true } hostStart)) = some (true, 10, 0x3FF, 0xBB8) ∧
    readingOf (step (presenting { attach := true, arm := true } hostStart)) = some (.timeout, 0, 0, false, false) := by
  decide
/-- H9: ARM beside an edge; the frame goes on. -/
theorem test_arm_edge : decoderOf (step (presenting (armEdge 3076) hostStart)) = some (true, 11, 0x7FE, 0xC04) ∧
    readingOf (step (presenting (armEdge 3076) hostStart)) = some (.timeout, 0, 0, false, false) := by decide
/-- R194: no stimulus, no change. -/
theorem test_stopped_clock : step hostStart = .next hostStart := step_nil rfl

/-! ### One step: the edge step (sections 2.1 to 2.5) -/

/-- E11 and E34 (a start gap across the wrap). -/
theorem test_edge_start : decoderOf (step (presenting (edge 0x2AF9) (dec true 5 0x15 1000))) = some (true, -2, 0, 0x2AF9) ∧
    decoderOf (step (presenting (edge 1) (dec true 5 0x15 0xFFFFD8F0))) = some (true, -2, 0, 1) := by decide
/-- E12: a tick one less than the last one. -/
theorem test_edge_start_backwards : decoderOf (step (presenting (edge 0x3E7) (dec true 5 0x15 1000)))
    = some (true, -2, 0, 0x3E7) := by decide
/-- E25. -/
theorem test_edge_ignore : decoderOf (step (presenting (edge 0x4268) (dec false 40 0x01E700FDE5 7000)))
    = some (false, 40, 0x01E700FDE5, 0x4268) := by decide
/-- E17. -/
theorem test_edge_discard_first : decoderOf (step (presenting (edge 0x3A98) (dec true (-2) 0 5000)))
    = some (true, -1, 0, 0x3A98) := by decide
/-- E19. -/
theorem test_edge_discard_second : decoderOf (step (presenting (edge 0x1388) (dec true (-1) 0 5000)))
    = some (true, 0, 0, 0x1388) := by decide
/-- E5. -/
theorem test_edge_data0 : decoderOf (step (presenting (edge 0x44C) (dec true 5 0x15 1000)))
    = some (true, 6, 0x2A, 0x44C) := by decide
/-- E32: the interval wraps. -/
theorem test_edge_data0_wrap : decoderOf (step (presenting (edge 0x2C) (dec true 5 0x15 0xFFFFFFE0)))
    = some (true, 6, 0x2A, 0x2C) := by decide
/-- E6. -/
theorem test_edge_data1 : decoderOf (step (presenting (edge 0x44D) (dec true 5 0x15 1000)))
    = some (true, 6, 0x2B, 0x44D) := by decide
/-- E8. -/
theorem test_edge_data1_max : decoderOf (step (presenting (edge 0x47E) (dec true 5 0x15 1000)))
    = some (true, 6, 0x2B, 0x47E) := by decide
/-- E9. -/
theorem test_edge_violation : decoderOf (step (presenting (edge 0x47F) (dec true 5 0x15 1000)))
    = some (false, 6, 0x2A, 0x47F) := by decide
/-- E30: a violation in slot 40 does not complete. -/
theorem test_edge_violation_last : decoderOf (step (presenting (edge 0x80B) lastSlot))
      = some (false, 40, 0x01E700FDE4, 0x80B) ∧
    readingOf (step (presenting (edge 0x80B) lastSlot)) = some (.timeout, 0, 0, false, false) := by decide
/-- E27. -/
theorem test_edge_complete0 : decoderOf (step (presenting (edge 0x81C) lastSlot)) = some (false, 40, 0x01E700FDE4, 0x81C) ∧
    readingOf (step (presenting (edge 0x81C) lastSlot)) = some (.badChecksum, 0, 0, true, true) := by decide
/-- E28. -/
theorem test_edge_complete1 : decoderOf (step (presenting (edge 0x848) lastSlot)) = some (false, 40, 0x01E700FDE5, 0x848) ∧
    readingOf (step (presenting (edge 0x848) lastSlot)) = some (.good, 253, 487, true, true) := by decide
/-- E31: ARM pre-empts the completion. -/
theorem test_edge_complete_arm : decoderOf (step (presenting (armEdge 0x848) lastSlot))
      = some (false, 40, 0x01E700FDE5, 0x848) ∧
    readingOf (step (presenting (armEdge 0x848) lastSlot)) = some (.timeout, 0, 0, false, false) := by decide
/-- R-2 and R-3. -/
theorem test_first_edge : decoderOf (step (presenting (edge 10000) State.reset)) = some (false, 0, 0, 0x2710) ∧
    decoderOf (step (presenting (edge 10001) State.reset)) = some (true, -2, 0, 0x2711) := by decide

/-! ### One operation: the interpreter (section 2.6) -/

/-- I9, I1 and I2: AUTO takes DHTXX, falls back to DHT11, takes neither. -/
theorem test_interpret_auto : readingOf (exec .interpretAuto (holding 0x01F4819006)) = some (.good, -400, 500, true, true) ∧
    readingOf (exec .interpretAuto (holding 0x5A003C0096)) = some (.good, 600, 900, true, true) ∧
    readingOf (exec .interpretAuto (holding 0x5A003D0097)) = some (.badData, 0, 0, true, true) :=
  ⟨by decide, by decide, by decide⟩
/-- I3 and I4 (humidity 9 and 8), I5 (91). -/
theorem test_interpret_dht11 : readingOf (exec .interpretDht11 (holding 0x0900190022)) = some (.good, 250, 90, true, true) ∧
    readingOf (exec .interpretDht11 (holding 0x0800190021)) = some (.badData, 0, 0, true, true) ∧
    readingOf (exec .interpretDht11 (holding 0x5B00190074)) = some (.badData, 0, 0, true, true) :=
  ⟨by decide, by decide, by decide⟩
/-- I6 and I7: a nonzero unused byte; I1 and I2: 60 and 61 degrees. -/
theorem test_interpret_dht11_unused : readingOf (exec .interpretDht11 (holding 0x320019014C)) = some (.badData, 0, 0, true, true) ∧
    readingOf (exec .interpretDht11 (holding 0x320119004C)) = some (.badData, 0, 0, true, true) ∧
    readingOf (exec .interpretDht11 (holding 0x5A003C0096)) = some (.good, 600, 900, true, true) ∧
    readingOf (exec .interpretDht11 (holding 0x5A003D0097)) = some (.badData, 0, 0, true, true) :=
  ⟨by decide, by decide, by decide, by decide⟩
/-- I10 to I13: the upper bounds. -/
theorem test_interpret_dhtxx_upper : readingOf (exec .interpretDhtxx (holding 0x044C000050)) = some (.good, 0, 1100, true, true) ∧
    readingOf (exec .interpretDhtxx (holding 0x044D000051)) = some (.badData, 0, 0, true, true) ∧
    readingOf (exec .interpretDhtxx (holding 0x000005464B)) = some (.good, 1350, 0, true, true) ∧
    readingOf (exec .interpretDhtxx (holding 0x000005474C)) = some (.badData, 0, 0, true, true) :=
  ⟨by decide, by decide, by decide, by decide⟩
/-- I14 to I16 and I18: the lower bound, negative zero, and a checksum that wraps. -/
theorem test_interpret_dhtxx_sign : readingOf (exec .interpretDhtxx (holding 0x000081F475)) = some (.good, -500, 0, true, true) ∧
    readingOf (exec .interpretDhtxx (holding 0x000081F576)) = some (.badData, 0, 0, true, true) ∧
    readingOf (exec .interpretDhtxx (holding 0x01F4800075)) = some (.good, 0, 500, true, true) ∧
    readingOf (exec .interpretDhtxx (holding 0x000001FF00)) = some (.good, 511, 0, true, true) :=
  ⟨by decide, by decide, by decide, by decide⟩
/-- I8 and I22 under code 3. -/
theorem test_interpret_reserved : readingOf (exec .interpretReserved (holding 0x3200000032)) = some (.good, 0, 500, true, true) ∧
    readingOf (exec .interpretReserved (holding 0x5A003C0016)) = some (.badChecksum, 0, 0, true, true) :=
  ⟨by decide, by decide⟩

/-! ### The assembler (R82, R83) -/

/-- The first six words of P1, and its length. -/
theorem test_assemble :
    (assemble [.stmt (.variant .dht11), .stmt .reset, .stmt .attach, .stmt .arm, .frame 20000 0x5A003C0096, .idleN 1]).take 6
      = [0x1800000000#38, 0x1400000000#38, 0x1600000000#38, 0x1500004E20#38, 0x1500004E84#38, 0x1500004F06#38] := by decide
/-- P4 cycles 51 to 54: the notation's `T` moves with a detached edge; and `ARM+GAP`. -/
theorem test_assemble_levels :
    assemble [.stmt (.variant .dhtxx), .stmt .detach, .stmt (.edge 40500), .stmt .attach, .gap 76, .armGap 120]
      = [0x2000000000#38, 0x2100009E34#38, 0x2400000000#38, 0x2500009E80#38, 0x2700009EF8#38] := by decide
/-- P4 cycles 5 to 12: the first eight bits of `0x01E700FDE5`. -/
theorem test_assemble_bits :
    (assemble [.stmt (.variant .dhtxx), .stmt .attach, .stmt (.edge 20230), .bitsN 0x01E700FDE5 8]).drop 2
      = [0x2500004F52#38, 0x2500004F9E#38, 0x2500004FEA#38, 0x2500005036#38, 0x2500005082#38, 0x25000050CE#38,
         0x250000511A#38, 0x2500005192#38] := by decide

/-! ### Witnesses: the hypotheses of the statements can be met -/

/-- An attached edge that does not arm, presented in a state, is a sampled EDGE cycle. -/
theorem presents_edge (t : Tick) (s : State) :
    IsEdge (edge t) ∧ (edge t).arm = false ∧ Samples (presenting (edge t) s) (edge t) [] :=
  ⟨⟨rfl, rfl, rfl⟩, rfl, rfl⟩

/-- The same with ARM. -/
theorem presents_armEdge (t : Tick) (s : State) :
    IsEdge (armEdge t) ∧ (armEdge t).arm = true ∧ Samples (presenting (armEdge t) s) (armEdge t) [] :=
  ⟨⟨rfl, rfl, rfl⟩, rfl, rfl⟩

/-- The state after reset presents any inputs. -/
theorem presents (x : Inputs) (s : State) : Samples (presenting x s) x [] := rfl

theorem witness_ResetWritesEveryElement :
    (({ rst := true } : Inputs).rst = true) ∧ Samples (presenting { rst := true } hostStart) { rst := true } [] :=
  ⟨rfl, rfl⟩

/-- Both clauses: without ARM (H5) and with it (H6). -/
theorem witness_DetachAbandonsTheFrame :
    (∃ x : Inputs, x.rst = false ∧ x.attach = false ∧ x.arm = false ∧ Samples (presenting x hostStart) x []) ∧
    (∃ x : Inputs, x.rst = false ∧ x.attach = false ∧ x.arm = true ∧ Samples (presenting x hostStart) x []) :=
  ⟨⟨{ edgeValid := true, edgeTick := 3076 }, rfl, rfl, rfl, rfl⟩,
    ⟨{ arm := true, edgeValid := true, edgeTick := 3076 }, rfl, rfl, rfl, rfl⟩⟩

theorem witness_IdleHoldsTheDecoder :
    ∃ x : Inputs, x.rst = false ∧ x.attach = true ∧ x.edgeValid = false ∧ x.arm = false ∧
      Samples (presenting x hostStart) x [] := ⟨{ attach := true }, rfl, rfl, rfl, rfl, rfl⟩

/-- Attached on a completing edge, and detached. -/
theorem witness_ArmStartsAFreshRead :
    ((armEdge 2120).rst = false ∧ (armEdge 2120).arm = true ∧ Samples (presenting (armEdge 2120) lastSlot) (armEdge 2120) []) ∧
    (∃ x : Inputs, x.rst = false ∧ x.arm = true ∧ x.attach = false ∧ Samples (presenting x hostStart) x []) :=
  ⟨⟨rfl, rfl, rfl⟩, ⟨{ arm := true }, rfl, rfl, rfl, rfl⟩⟩

/-- Intervals 10001 and 2^32 - 1 (E11, E12); the EDGE and Samples premises are `presents_edge`. -/
theorem witness_EdgeStartBeginsAFrame :
    10000 < ((edge 0x2AF9).edgeTick - (presenting (edge 0x2AF9) (dec true 5 0x15 1000)).lastEdgeTick).toNat ∧
    10000 < ((edge 0x3E7).edgeTick - (presenting (edge 0x3E7) (dec true 5 0x15 1000)).lastEdgeTick).toNat := by decide

/-- Intervals 0 and 10000 (E23, E25). -/
theorem witness_EdgeOutsideAFrameIsIgnored :
    ((edge 7000).edgeTick - (dec false 40 0 7000).lastEdgeTick).toNat ≤ 10000 ∧
    ((edge 17000).edgeTick - (dec false 40 0 7000).lastEdgeTick).toNat = 10000 ∧
    (dec false 40 0 7000).inFrame = false := by decide

/-- Slot counts -2 with interval 0 (E13) and -1 with interval 10000 (E21). -/
theorem witness_DiscardSlotsTakeAnyInterval :
    ((edge 5000).edgeTick - (dec true (-2) 0 5000).lastEdgeTick).toNat ≤ 10000 ∧
    (dec true (-2) 0 5000).inFrame = true ∧ (dec true (-2) 0 5000).bitCount.toInt = -2 ∧
    ((edge 15000).edgeTick - (dec true (-1) 0 5000).lastEdgeTick).toNat ≤ 10000 ∧
    (dec true (-1) 0 5000).bitCount.toInt = -1 := by decide

/-- Intervals 60 and 100 at slot counts 0 and 38. -/
theorem witness_ShortPulseAppendsZero :
    60 ≤ ((edge 1060).edgeTick - (dec true 0 0 1000).lastEdgeTick).toNat ∧
    ((edge 1100).edgeTick - (dec true 38 0x15 1000).lastEdgeTick).toNat ≤ 100 ∧
    (dec true 0 0 1000).bitCount.toInt = 0 ∧ (dec true 38 0x15 1000).bitCount.toInt = 38 ∧
    60 ≤ ((edge 1100).edgeTick - (dec true 38 0x15 1000).lastEdgeTick).toNat ∧
    ((edge 1060).edgeTick - (dec true 0 0 1000).lastEdgeTick).toNat ≤ 100 := by decide

/-- Intervals 101 and 150 at slot counts 0 and 38. -/
theorem witness_LongPulseAppendsOne :
    101 ≤ ((edge 1101).edgeTick - (dec true 0 0 1000).lastEdgeTick).toNat ∧
    ((edge 1150).edgeTick - (dec true 38 0x15 1000).lastEdgeTick).toNat ≤ 150 ∧
    (dec true 0 0 1000).bitCount.toInt = 0 ∧ (dec true 38 0x15 1000).bitCount.toInt = 38 ∧
    101 ≤ ((edge 1150).edgeTick - (dec true 38 0x15 1000).lastEdgeTick).toNat ∧
    ((edge 1101).edgeTick - (dec true 0 0 1000).lastEdgeTick).toNat ≤ 150 := by decide

/-- Intervals 0, 59, 151 and 10000 at slot counts 0 and 39. -/
theorem witness_TimingViolationAbortsTheFrame :
    ((edge 1000).edgeTick - (dec true 0 0 1000).lastEdgeTick).toNat ≤ 59 ∧
    ((edge 1059).edgeTick - (dec true 39 0 1000).lastEdgeTick).toNat = 59 ∧
    151 ≤ ((edge 1151).edgeTick - (dec true 39 0 1000).lastEdgeTick).toNat ∧
    ((edge 11000).edgeTick - (dec true 0 0 1000).lastEdgeTick).toNat = 10000 ∧
    (dec true 39 0 1000).bitCount.toInt = 39 := by decide

/-- Completing edges at intervals 60, 100, 101 and 150. -/
theorem witness_CompletesAt :
    CompletesAt lastSlot 2060 ∧ CompletesAt lastSlot 2100 ∧ CompletesAt lastSlot 2101 ∧ CompletesAt lastSlot 2150 := by
  unfold CompletesAt; decide

/-- A completing edge without ARM, for the 0 and the 1 clause, and with it. -/
theorem witness_FortiethBitCompletesTheFrame :
    (IsEdge (edge 2100) ∧ CompletesAt lastSlot (edge 2100).edgeTick ∧
      ((edge 2100).edgeTick - lastSlot.lastEdgeTick).toNat ≤ 100 ∧ (edge 2100).arm = false) ∧
    (IsEdge (armEdge 2101) ∧ CompletesAt lastSlot (armEdge 2101).edgeTick ∧
      101 ≤ ((armEdge 2101).edgeTick - lastSlot.lastEdgeTick).toNat ∧ (armEdge 2101).arm = true) := by
  unfold CompletesAt IsEdge; decide

/-- The clauses of R101: equal ticks, and a tick that wrapped (R101's example). -/
theorem witness_IntervalWrapsModulo32 :
    (5#32 = 5#32) ∧ (0x40#32).toNat < (0xFFFFFFF0#32).toNat ∧ (0x40#32).toNat + 2 ^ 32 - (0xFFFFFFF0#32).toNat = 80 := by
  decide

/-- EDGE cycles, armed or not, and a cycle that is neither an EDGE cycle nor a reset. -/
theorem witness_EveryEdgeRecordsItsTick : IsEdge (armEdge 5) ∧ Samples (presenting (armEdge 5) hostStart) (armEdge 5) [] :=
  ⟨⟨rfl, rfl, rfl⟩, rfl⟩
theorem witness_DecoderMovesOnlyOnEdges :
    ∃ x : Inputs, ¬ IsEdge x ∧ x.rst = false ∧ Samples (presenting x hostStart) x [] :=
  ⟨{ edgeValid := true }, by simp [IsEdge], rfl, rfl⟩

/-- In a frame, a data slot, in a decoder state R115 allows; intervals in and out of 101..150. -/
theorem witness_InFrameEdgesCountSlots :
    ((edge 2076).edgeTick - lastSlot.lastEdgeTick).toNat ≤ 10000 ∧ lastSlot.inFrame = true ∧
      DecoderInv (presenting (edge 2076) lastSlot) := by unfold DecoderInv; decide
theorem witness_DataSlotsShiftWithoutLoss :
    ((edge 2101).edgeTick - lastSlot.lastEdgeTick).toNat = 101 ∧ ((edge 2100).edgeTick - lastSlot.lastEdgeTick).toNat = 100 ∧
      lastSlot.inFrame = true ∧ 0 ≤ lastSlot.bitCount.toInt ∧ DecoderInv (presenting (edge 2101) lastSlot) := by
  unfold DecoderInv; decide

/-- Views a run can meet: slots -1 and 40. -/
theorem witness_reachable : View.reachable ⟨true, BitVec.ofInt 7 (-2), 0⟩ = true ∧ View.reachable ⟨true, 39#7, 0⟩ = true ∧
    View.reachable ⟨false, 40#7, 0⟩ = true := by decide
theorem witness_ExactlyOneEdgeRowFits :
    View.reachable ⟨true, 39#7, 0⟩ = true ∧ (Instr.edgeComplete1 101#32).fits ⟨true, 39#7, 0⟩ = true := by decide
theorem witness_DecodedOperationsMatchTheirRows :
    (decode ⟨true, 39#7, 0#32⟩ 0x350000004C#38).result = some .interpretReserved ∧
    (decode View.afterReset 0x1600000000#38).result = some .arm := by decide

/-- A well-formed cycle of each shape, with operands at the ends of their ranges. -/
theorem witness_DecodeEncodeGivesTheCycleBack :
    Cycle.wellFormed ⟨true, 5#7, 0⟩ ⟨.reset, none⟩ = true ∧ Cycle.wellFormed ⟨true, 5#7, 0⟩ ⟨.detach, some .arm⟩ = true ∧
    Cycle.wellFormed ⟨true, 5#7, 0⟩ ⟨.idle, none⟩ = true ∧
    Cycle.wellFormed ⟨true, 5#7, 0⟩ ⟨.edgeStart 0xFFFFFFFF#32, some .arm⟩ = true ∧
    Cycle.wellFormed ⟨false, 5#7, 0⟩ ⟨.edgeIgnore 10000#32, none⟩ = true ∧
    Cycle.wellFormed ⟨true, BitVec.ofInt 7 (-1), 0⟩ ⟨.edgeDiscard 0#32, none⟩ = true ∧
    Cycle.wellFormed ⟨true, 0#7, 0⟩ ⟨.edgeData0 60#32, none⟩ = true ∧
    Cycle.wellFormed ⟨true, 38#7, 0⟩ ⟨.edgeData1 150#32, none⟩ = true ∧
    Cycle.wellFormed ⟨true, 39#7, 0⟩ ⟨.edgeViolation 151#32, some .arm⟩ = true ∧
    Cycle.wellFormed ⟨true, 39#7, 0⟩ ⟨.edgeComplete0 100#32, some .interpretReserved⟩ = true ∧
    Cycle.wellFormed ⟨true, 39#7, 0⟩ ⟨.edgeComplete1 101#32, some .arm⟩ = true := by decide

/-- A frame whose checksum fails (I20). -/
theorem witness_ChecksumMismatchIsBadChecksum :
    (Reference.byte 0x01E700FDE4 1 + Reference.byte 0x01E700FDE4 2 + Reference.byte 0x01E700FDE4 3
      + Reference.byte 0x01E700FDE4 4) % 256 ≠ Reference.byte 0x01E700FDE4 0 := by decide

/-- Frames that pass the checksum, valid and invalid under DHT11: 60 degrees and 61 (I1, I2), 9 percent and 8 (I3, I4). -/
theorem witness_Dht11ReadsWholeUnits :
    (∀ f ∈ [0x5A003C0096#40, 0x5A003D0097#40, 0x0900190022#40, 0x0800190021#40],
      (Reference.byte f 1 + Reference.byte f 2 + Reference.byte f 3 + Reference.byte f 4) % 256 = Reference.byte f 0) ∧
    (Reference.byte 0x5A003C0096 1 = 0 ∧ Reference.byte 0x5A003C0096 3 = 0 ∧ Reference.byte 0x5A003C0096 2 = 60 ∧
      Reference.byte 0x5A003C0096 4 = 90) ∧
    Reference.byte 0x5A003D0097 2 = 61 ∧ Reference.byte 0x0900190022 4 = 9 ∧ Reference.byte 0x0800190021 4 = 8 := by
  simp [Reference.byte]

/-- Frames that pass the checksum, at both ends of the DHTXX ranges (I10 to I15), with the sign bit set and clear. -/
theorem witness_DhtxxReadsSignedTenths :
    (∀ f ∈ [0x044C000050#40, 0x044D000051#40, 0x000005464B#40, 0x000005474C#40, 0x000081F475#40, 0x000081F576#40],
      (Reference.byte f 1 + Reference.byte f 2 + Reference.byte f 3 + Reference.byte f 4) % 256 = Reference.byte f 0) ∧
    Reference.byte 0x044C000050 4 * 256 + Reference.byte 0x044C000050 3 = 1100 ∧
    Reference.byte 0x000005464B 2 * 256 + Reference.byte 0x000005464B 1 = 1350 ∧
    128 ≤ Reference.byte 0x000081F475 2 ∧
    (Reference.byte 0x000081F475 2 - 128) * 256 + Reference.byte 0x000081F475 1 = 500 := by
  simp [Reference.byte]

/-- Both clauses: a frame DHTXX accepts (I9) and one it does not (I1). -/
theorem witness_AutoTriesDhtxxThenDht11 :
    (∃ u w : State, exec .interpretDhtxx (holding 0x01F4819006) = .next u ∧
      exec .interpretDht11 (holding 0x01F4819006) = .next w ∧ u.resStatus = .good) ∧
    (∃ u w : State, exec .interpretDhtxx (holding 0x5A003C0096) = .next u ∧
      exec .interpretDht11 (holding 0x5A003C0096) = .next w ∧ u.resStatus ≠ .good) :=
  ⟨⟨_, _, rfl, rfl, by decide⟩, ⟨_, _, rfl, rfl, by decide⟩⟩

/-- The operations the INTERPRET statements range over give GOOD (I19) and not GOOD (I20). -/
theorem witness_InterpretResultValues :
    readingOf (exec .interpretAuto (holding 0x01E700FDE5)) = some (.good, 253, 487, true, true) ∧
    readingOf (exec .interpretDhtxx (holding 0x01E700FDE4)) = some (.badChecksum, 0, 0, true, true) :=
  ⟨by decide, by decide⟩

/-- The quotients of a frame with the sign bit set: 50.0 percent and -40.0 degrees (W5). -/
theorem witness_TenthsDecideAsExactDivision :
    ((Reference.byte 0x01F4819006 4 * 256 + Reference.byte 0x01F4819006 3 : Nat) : ℚ) / 10 = 50 ∧
    128 ≤ Reference.byte 0x01F4819006 2 ∧
    -((((Reference.byte 0x01F4819006 2 - 128) * 256 + Reference.byte 0x01F4819006 1 : Nat) : ℚ) / 10) = -40 := by
  have h1 : Reference.byte 0x01F4819006 4 * 256 + Reference.byte 0x01F4819006 3 = 500 := by decide
  have h2 : (Reference.byte 0x01F4819006 2 - 128) * 256 + Reference.byte 0x01F4819006 1 = 400 := by decide
  rw [h1, h2]
  exact ⟨by norm_num, by decide, by norm_num⟩

/-- Pending words with and without a result path, and no pending word. -/
theorem witness_StepRunsTheDecodedOperations :
    (presenting (edge 2076) lastSlot).stimulus = [wordOfInputs (edge 2076)] ∧
    (decode lastSlot.view (wordOfInputs (edge 2076))).result = some .interpretAuto ∧
    (decode lastSlot.view (wordOfInputs (edge 2000))).result = none ∧ hostStart.stimulus = [] := by decide

theorem witness_CompletionWritesTheReading :
    IsEdge (edge 2150) ∧ (edge 2150).arm = false ∧ CompletesAt (presenting (edge 2150) lastSlot) (edge 2150).edgeTick ∧
      Samples (presenting (edge 2150) lastSlot) (edge 2150) [] := by
  unfold IsEdge CompletesAt Samples; decide
theorem witness_ArmPreemptsTheCompletion :
    IsEdge (armEdge 2060) ∧ (armEdge 2060).arm = true ∧
      CompletesAt (presenting (armEdge 2060) lastSlot) (armEdge 2060).edgeTick ∧
      Samples (presenting (armEdge 2060) lastSlot) (armEdge 2060) [] := by
  unfold IsEdge CompletesAt Samples; decide
theorem witness_DoneLastsOneCycle : Samples (presenting (edge 2076) lastSlot) (edge 2076) [] := rfl
theorem witness_StepIsTheCycleFunction : Samples (presenting (edge 2076) lastSlot) (edge 2076) [] := rfl

/-- Two states with one decoder state and different results. -/
theorem witness_LaterCompletionOverwrites :
    SameDecoder (presenting (edge 2076) lastSlot)
      { presenting (edge 2076) lastSlot with resStatus := .good, resTemp := 253, newData := true } ∧
    IsEdge (edge 2076) ∧ (edge 2076).arm = false ∧ CompletesAt (presenting (edge 2076) lastSlot) (edge 2076).edgeTick := by
  unfold SameDecoder IsEdge CompletesAt; decide

/-- The three silent conditions, in a state the block's invariant allows. -/
theorem witness_AbortsAreSilent :
    BlockInv lastSlot ∧ lastSlot.inFrame = true ∧ (({} : Inputs).attach = false) ∧
    10000 < ((edge 12001).edgeTick - lastSlot.lastEdgeTick).toNat ∧ 0 ≤ lastSlot.bitCount.toInt ∧
    ((edge 2059).edgeTick - lastSlot.lastEdgeTick).toNat < 60 ∧
    150 < ((edge 2151).edgeTick - lastSlot.lastEdgeTick).toNat ∧
    ((edge 2151).edgeTick - lastSlot.lastEdgeTick).toNat ≤ 10000 := by
  refine ⟨⟨?_, ?_, ?_⟩, ?_⟩
  · unfold DecoderInv; decide
  · exact ⟨fun h => absurd h (by decide), fun _ => ⟨rfl, rfl⟩⟩
  · exact ⟨by decide, by decide⟩
  · decide

/-- A completing interval without a frame in progress: no reset, no ARM, no completion. -/
theorem witness_ReadingHasThreeWriters :
    (edge 2076).rst = false ∧ (edge 2076).arm = false ∧
    ¬ (IsEdge (edge 2076) ∧ CompletesAt (dec false 39 0 2000) (edge 2076).edgeTick) := by
  unfold IsEdge CompletesAt; decide
/-- An armed completing edge reads no variant. -/
theorem witness_VariantReadOnlyAtCompletion :
    Samples (presenting (armEdge 2076) lastSlot) (armEdge 2076) [] ∧
    ¬ (IsEdge (armEdge 2076) ∧ (armEdge 2076).arm = false ∧ CompletesAt lastSlot (armEdge 2076).edgeTick) :=
  ⟨rfl, fun h => absurd h.2.1 (by decide)⟩
/-- Both clauses: an IDLE cycle, and an edge presented while detached. -/
theorem witness_TickIgnoredOutsideEdgeCycles :
    (∃ x : Inputs, ¬ IsEdge x ∧ x.attach = true ∧ Samples (presenting x hostStart) x []) ∧
    (∃ x : Inputs, (x.rst = true ∨ x.attach = false) ∧ x.edgeValid = true ∧ Samples (presenting x hostStart) x []) :=
  ⟨⟨{ attach := true }, by simp [IsEdge], rfl, rfl⟩, ⟨{ edgeValid := true }, .inr rfl, rfl, rfl⟩⟩

/-- A state the invariant allows, and a step from it. -/
theorem witness_EveryStepKeepsInv : BlockInv lastSlot ∧ ∃ t : State, step lastSlot = .next t :=
  ⟨witness_AbortsAreSilent.1, (step_next lastSlot).imp fun _ h => h.1⟩

/-- Ticks 10000 and 10001 (R-2, R-3). -/
theorem witness_FirstEdgeAfterReset :
    IsEdge (edge 10001) ∧ (edge 10001).arm = false ∧ 10000 < (edge 10001).edgeTick.toNat ∧
    (edge 10000).edgeTick.toNat ≤ 10000 := by
  unfold IsEdge; decide

/-- Two detached cycles, one with an edge presented (P4 cycles 51 and 52). -/
theorem witness_DetachedEdgesChangeNothing :
    ∀ w ∈ ({ hostStart with stimulus := [0x2000000000#38, 0x2100009E34#38] }.stimulus.take 2),
      (inputsOf w).rst = false ∧ (inputsOf w).attach = false ∧ (inputsOf w).arm = false := by
  simp only [List.take, List.mem_cons, List.not_mem_nil, or_false, forall_eq_or_imp, forall_eq]
  decide

/-- The frame of I19 on the wire: its 40 bits, and the intervals that carry them at the ends of their ranges. -/
def wireBits : List Bool := (List.range 40).map fun j => (0x01E700FDE5#40).getLsbD (39 - j)
def wireIntervals : List Tick := wireBits.map fun b => if b then 101#32 else 100#32
def wireStart : State :=
  { State.reset with stimulus := edgeWords .auto 0 (10001#32 :: 0#32 :: 10000#32 :: wireIntervals) ++ [] }

theorem witness_FrameOnTheWireIsDelivered :
    10000 < (10001#32).toNat ∧ (0#32).toNat ≤ 10000 ∧ (10000#32).toNat ≤ 10000 ∧ wireBits.length = 40 ∧
    List.Forall₂ Carries wireBits wireIntervals ∧
    wireStart.stimulus = edgeWords .auto wireStart.lastEdgeTick (10001#32 :: 0#32 :: 10000#32 :: wireIntervals) ++ [] := by
  refine ⟨by decide, by decide, by decide, rfl, ?_, rfl⟩
  unfold wireIntervals
  rw [List.forall₂_map_right_iff, List.forall₂_same]
  intro b _
  cases b <;> simp [Carries]

/-- The 43 steps of that frame end with `done` up, from a state out of a frame with `done` low: the one run of many steps
here, since the statement it is the witness of says that fewer cannot do it. -/
theorem witness_NoCompletionBefore43Edges :
    wireStart.inFrame = false ∧ wireStart.done = false ∧
    readingOf (run 43 wireStart) = some (.good, 253, 487, true, true) := ⟨rfl, rfl, by rfl⟩

/-- A stretch of stimulus without a reset. -/
theorem witness_DecodingIsTransparentToTickWrap :
    ∀ w ∈ wireStart.stimulus.take 3, (inputsOf w).rst = false := by
  simp only [wireStart, edgeWords, List.cons_append, List.take, List.mem_cons, List.not_mem_nil, or_false,
    forall_eq_or_imp, forall_eq, inputsOf_wordOfInputs, and_self]
theorem witness_FrameStatementIsAFrameOnTheWire : ({ attach := true } : Levels).attach = true := rfl

end Sys2Proof.Tests
end

section
/-! SUPPORT. When the decoder answers a COMPLETE row, and which cycles read `variant` (10_state.md R37). -/

namespace Sys2Proof.Machine

variable {s : State} {x : Inputs} {t : Tick} {v : Variant}

/-- R72 rows 7 and 8: the row chosen completes a frame exactly at the 40th data bit. -/
theorem selectEdge_completes_iff : (selectEdge s.view t).completes = true ↔ CompletesAt s t := by
  have hcases := selectEdge_cases s.view t
  simp only [State.view_inFrame, State.view_lastEdgeTick, View.slot, State.view_bitCount, interval] at hcases
  unfold CompletesAt
  obtain ⟨hrow, hgap⟩ | ⟨-, ⟨hrow, hout⟩ | ⟨hin, ⟨hrow, hslot⟩ | ⟨-, ⟨hrow, hbad⟩ |
    ⟨hlo, hhi, ⟨hrow, hslot⟩ | ⟨hrow, hslot⟩⟩ | ⟨hlo, hhi, ⟨hrow, hslot⟩ | ⟨hrow, hslot⟩⟩⟩⟩⟩ := hcases
  all_goals simp only [hrow, Instr.completes, Bool.false_eq_true, false_iff, true_iff]
  case inl => omega
  case inr.inl => simp [hout]
  all_goals simp only [hin, true_and]; omega

/-- R165: the primary operation completes a frame exactly in an EDGE cycle at the 40th data bit. -/
theorem primaryOf_completes_iff :
    (primaryOf s.view x).completes = true ↔ IsEdge x ∧ CompletesAt s x.edgeTick := by
  by_cases hx : IsEdge x
  · rw [primaryOf_edge hx, selectEdge_completes_iff, and_iff_right hx]
  · refine iff_of_false ?_ (fun h => hx h.1)
    unfold primaryOf
    split_ifs with hrst hattach hvalid
    · decide
    · decide
    · exact absurd ⟨by simpa using hrst, by simpa using hattach, hvalid⟩ hx
    · decide

/-- `variant` takes no part in the choice of the primary operation (R71, R72). -/
@[simp] theorem primaryOf_variant (view : View) : primaryOf view { x with variant := v } = primaryOf view x := rfl

/-- The result path reads `variant` only beside a completion that no ARM takes up (R169). -/
theorem resultOf_variant {p : Instr} (h : ¬ (x.arm = false ∧ p.completes = true)) :
    resultOf { x with variant := v } p = resultOf x p := by
  unfold resultOf
  split_ifs with hrst harm hcompletes
  · rfl
  · rfl
  · exact absurd ⟨by simpa using harm, hcompletes⟩ h
  · rfl

/-- R37: outside an unarmed completion the cycle decoded does not depend on `variant`. -/
theorem decodeInputs_variant (h : ¬ (IsEdge x ∧ x.arm = false ∧ CompletesAt s x.edgeTick)) :
    decodeInputs s.view { x with variant := v } = decodeInputs s.view x := by
  have hresult : ¬ (x.arm = false ∧ (primaryOf s.view x).completes = true) := by
    rw [primaryOf_completes_iff]; tauto
  rw [decodeInputs, primaryOf_variant, resultOf_variant hresult, decodeInputs]

/-- What a step on presented inputs runs, whatever stood in their place. -/
theorem step_presenting (s : State) (x : Inputs) (rest : List StimulusWord) :
    step { s with stimulus := wordOfInputs x :: rest } =
      runCycle (decodeInputs s.view x) { s with stimulus := rest } :=
  step_of_samples rfl

/-- Settles O44: `variant` enters a step through the cycle decoded alone. -/
theorem variantReadOnlyAtCompletion : Obligations.VariantReadOnlyAtCompletion := by
  intro s x v rest hs h
  rw [step_presenting, decodeInputs_variant h, step_of_samples hs]

end Sys2Proof.Machine
end

section
/-! SUPPORT. The output ports (10_state.md R21) and the status codes (30_encoding.md R77). -/

namespace Sys2Proof.Machine

/-- The four status codes are distinct (R77). -/
theorem Status.code_injective : Function.Injective Status.code := by
  intro a b
  cases a <;> cases b <;> decide

/-- The status port carries the code of a status exactly when the register holds that status. -/
theorem State.outputs_status_eq_code_iff (s : State) (r : Status) :
    s.outputs.status = r.code ↔ s.resStatus = r :=
  Status.code_injective.eq_iff

/-- R211: the ports do not read the pending stimulus. -/
theorem State.outputs_stimulus (s : State) (inputs : List StimulusWord) :
    State.outputs { s with stimulus := inputs } = s.outputs := rfl

/-- Settles O46: each port is its register, and the status codes are distinct. -/
theorem outputsAreTheResultRegister : Obligations.OutputsAreTheResultRegister := by
  intro s
  exact ⟨rfl, rfl, rfl, rfl, s.outputs_status_eq_code_iff .good, s.outputs_status_eq_code_iff .badChecksum,
    s.outputs_status_eq_code_iff .badData, s.outputs_status_eq_code_iff .timeout, s.outputs_stimulus⟩

end Sys2Proof.Machine
end

section
/-! SUPPORT. The interval classes by their ranges (30_encoding.md R73), and the choice of the EDGE row against the
conditions of R72, each read through the class of its interval. -/

namespace Sys2Proof

/-! ### Interval classes -/

/-- Settles O13: the class is known by `intervalClass_cases`, and its range excludes the other three. -/
theorem intervalClassesByRange : Obligations.IntervalClassesByRange := by
  intro iv
  obtain ⟨hclass, hrange⟩ | ⟨hclass, hrange⟩ | ⟨hclass, hrange⟩ | ⟨hclass, hrange⟩ := intervalClass_cases iv
  all_goals
    simp only [hclass, reduceCtorEq, true_iff, false_iff]
    omega

variable {iv : Tick}

theorem intervalClass_eq_gap_iff : intervalClass iv = .gap ↔ 10001 ≤ iv.toNat :=
  (intervalClassesByRange iv).1

theorem intervalClass_eq_bit0_iff : intervalClass iv = .bit0 ↔ 60 ≤ iv.toNat ∧ iv.toNat ≤ 100 :=
  (intervalClassesByRange iv).2.1

theorem intervalClass_eq_bit1_iff : intervalClass iv = .bit1 ↔ 101 ≤ iv.toNat ∧ iv.toNat ≤ 150 :=
  (intervalClassesByRange iv).2.2.1

theorem intervalClass_eq_bad_iff :
    intervalClass iv = .bad ↔ iv.toNat ≤ 59 ∨ (151 ≤ iv.toNat ∧ iv.toNat ≤ 10000) :=
  (intervalClassesByRange iv).2.2.2

/-! ### The conditions of the EDGE rows, read through the interval's class -/

variable {v : View} {t : Tick}

/-- The class of the interval that an edge at `t` ends. -/
def View.classAt (v : View) (t : Tick) : IntervalClass := intervalClass (interval v.lastEdgeTick t)

theorem View.classAt_eq_gap_iff : v.classAt t = .gap ↔ 10001 ≤ v.intervalTo t := by
  rw [View.classAt, View.intervalTo_eq, intervalClass_eq_gap_iff]

theorem View.classAt_eq_bit0_iff : v.classAt t = .bit0 ↔ 60 ≤ v.intervalTo t ∧ v.intervalTo t ≤ 100 := by
  rw [View.classAt, View.intervalTo_eq, intervalClass_eq_bit0_iff]

theorem View.classAt_eq_bit1_iff : v.classAt t = .bit1 ↔ 101 ≤ v.intervalTo t ∧ v.intervalTo t ≤ 150 := by
  rw [View.classAt, View.intervalTo_eq, intervalClass_eq_bit1_iff]

theorem View.classAt_eq_bad_iff :
    v.classAt t = .bad ↔ v.intervalTo t ≤ 59 ∨ (151 ≤ v.intervalTo t ∧ v.intervalTo t ≤ 10000) := by
  rw [View.classAt, View.intervalTo_eq, intervalClass_eq_bad_iff]

theorem fits_edgeStart_iff : (Instr.edgeStart t).fits v = true ↔ v.classAt t = .gap := by
  simp [Instr.fits, View.classAt_eq_gap_iff]; omega

theorem fits_edgeIgnore_iff :
    (Instr.edgeIgnore t).fits v = true ↔ v.classAt t ≠ .gap ∧ v.inFrame = false := by
  cases hf : v.inFrame <;> simp [Instr.fits, View.classAt_eq_gap_iff, hf]
  omega

theorem fits_edgeDiscard_iff :
    (Instr.edgeDiscard t).fits v = true ↔
      v.classAt t ≠ .gap ∧ v.inFrame = true ∧ (v.slot = -1 ∨ v.slot = 0) := by
  cases hf : v.inFrame <;> simp [Instr.fits, View.classAt_eq_gap_iff, hf]
  omega

theorem fits_edgeData0_iff :
    (Instr.edgeData0 t).fits v = true ↔ v.classAt t = .bit0 ∧ v.inFrame = true ∧ 1 ≤ v.slot ∧ v.slot < 40 := by
  cases hf : v.inFrame <;> simp [Instr.fits, View.classAt_eq_bit0_iff, hf]
  omega

theorem fits_edgeData1_iff :
    (Instr.edgeData1 t).fits v = true ↔ v.classAt t = .bit1 ∧ v.inFrame = true ∧ 1 ≤ v.slot ∧ v.slot < 40 := by
  cases hf : v.inFrame <;> simp [Instr.fits, View.classAt_eq_bit1_iff, hf]
  omega

theorem fits_edgeViolation_iff :
    (Instr.edgeViolation t).fits v = true ↔ v.classAt t = .bad ∧ v.inFrame = true ∧ 1 ≤ v.slot ∧ v.slot ≤ 40 := by
  cases hf : v.inFrame <;> simp [Instr.fits, View.classAt_eq_bad_iff, hf]
  omega

theorem fits_edgeComplete0_iff :
    (Instr.edgeComplete0 t).fits v = true ↔ v.classAt t = .bit0 ∧ v.inFrame = true ∧ v.slot = 40 := by
  cases hf : v.inFrame <;> simp [Instr.fits, View.classAt_eq_bit0_iff, hf]

theorem fits_edgeComplete1_iff :
    (Instr.edgeComplete1 t).fits v = true ↔ v.classAt t = .bit1 ∧ v.inFrame = true ∧ v.slot = 40 := by
  cases hf : v.inFrame <;> simp [Instr.fits, View.classAt_eq_bit1_iff, hf]
  omega

/-! ### The row chosen -/

theorem selectEdge_of_gap (h : v.classAt t = .gap) : selectEdge v t = .edgeStart t := if_pos h

theorem selectEdge_outside_frame (h : v.classAt t ≠ .gap) (hf : v.inFrame = false) :
    selectEdge v t = .edgeIgnore t :=
  (if_neg h).trans (if_pos hf)

theorem selectEdge_discard_slot (h : v.classAt t ≠ .gap) (hf : v.inFrame = true) (hs : v.slot ≤ 0) :
    selectEdge v t = .edgeDiscard t :=
  (if_neg h).trans ((if_neg (by simp [hf])).trans (if_pos hs))

theorem selectEdge_data_slot (h : v.classAt t ≠ .gap) (hf : v.inFrame = true) (hs : 1 ≤ v.slot) :
    selectEdge v t = selectData (decide (v.slot = 40)) t (v.classAt t) :=
  (if_neg h).trans ((if_neg (by simp [hf])).trans (if_neg (by omega)))

/-- R72: a row whose condition holds is the row chosen. -/
theorem selectEdge_eq_of_fits :
    ∀ i ∈ [Instr.edgeStart t, .edgeIgnore t, .edgeDiscard t, .edgeData0 t, .edgeData1 t, .edgeViolation t,
      .edgeComplete0 t, .edgeComplete1 t], i.fits v = true → i = selectEdge v t := by
  simp only [List.forall_mem_cons, List.not_mem_nil, false_imp_iff, implies_true, and_true,
    fits_edgeStart_iff, fits_edgeIgnore_iff, fits_edgeDiscard_iff, fits_edgeData0_iff, fits_edgeData1_iff,
    fits_edgeViolation_iff, fits_edgeComplete0_iff, fits_edgeComplete1_iff]
  refine ⟨?start, ?ignore, ?discard, ?data0, ?data1, ?violation, ?complete0, ?complete1⟩
  case start => exact fun hclass => (selectEdge_of_gap hclass).symm
  case ignore => exact fun ⟨hclass, hf⟩ => (selectEdge_outside_frame hclass hf).symm
  case discard => exact fun ⟨hclass, hf, hslot⟩ => (selectEdge_discard_slot hclass hf (by omega)).symm
  case violation =>
    rintro ⟨hclass, hf, hlo, -⟩
    rw [selectEdge_data_slot (by simp [hclass]) hf hlo, hclass, selectData]
  case data0 | data1 =>
    rintro ⟨hclass, hf, hlo, hhi⟩
    simp [selectEdge_data_slot, hclass, hf, hlo, hhi.ne, selectData]
  case complete0 | complete1 =>
    rintro ⟨hclass, hf, hslot⟩
    simp [selectEdge_data_slot, hclass, hf, hslot, selectData]

/-- The slot numbers of a frame that a run after reset can meet (R72). -/
theorem View.slot_bounds (h : v.reachable = true) (hf : v.inFrame = true) : -1 ≤ v.slot ∧ v.slot ≤ 40 := by
  simpa [View.reachable, hf] using h

/-- R72: in the views a run can meet, the row chosen meets its condition. -/
theorem selectEdge_fits (hv : v.reachable = true) : (selectEdge v t).fits v = true := by
  by_cases hgap : v.classAt t = .gap
  · rw [selectEdge_of_gap hgap, fits_edgeStart_iff, hgap]
  cases hf : v.inFrame with
  | false => rw [selectEdge_outside_frame hgap hf, fits_edgeIgnore_iff]; exact ⟨hgap, hf⟩
  | true =>
    obtain ⟨hlo, hhi⟩ := v.slot_bounds hv hf
    by_cases hdiscard : v.slot ≤ 0
    · rw [selectEdge_discard_slot hgap hf hdiscard, fits_edgeDiscard_iff]
      exact ⟨hgap, hf, by omega⟩
    have hdata : 1 ≤ v.slot := by omega
    rw [selectEdge_data_slot hgap hf hdata]
    cases hclass : v.classAt t with
    | gap => exact absurd hclass hgap
    | bad => exact fits_edgeViolation_iff.2 ⟨hclass, hf, hdata, hhi⟩
    | bit0 =>
      by_cases hlast : v.slot = 40
      · simp [selectData, hlast, fits_edgeComplete0_iff, hclass, hf]
      · simp [selectData, hlast, fits_edgeData0_iff, hclass, hf, hdata, lt_of_le_of_ne hhi]
    | bit1 =>
      by_cases hlast : v.slot = 40
      · simp [selectData, hlast, fits_edgeComplete1_iff, hclass, hf]
      · simp [selectData, hlast, fits_edgeData1_iff, hclass, hf, hdata, lt_of_le_of_ne hhi]

/-- Settles O19: the row chosen fits, and a row that fits is the row chosen. -/
theorem exactlyOneEdgeRowFits : Obligations.ExactlyOneEdgeRowFits :=
  fun _ _ hv => ⟨selectEdge_fits hv, selectEdge_eq_of_fits⟩

end Sys2Proof
end

section
/-! SUPPORT. The control vector `CV` (30_encoding.md R70) and the operations it selects (R71). -/

namespace Sys2Proof
open Machine (IsEdge primaryOf_edge)

variable {v : View} {x : Inputs} {w : StimulusWord} {p : Instr}

/-! ### The primary operation and ARM by the inputs -/

/-- The row chosen for an edge is none of the primary operations without an edge. -/
theorem selectEdge_ne_hostOperation (v : View) (t : Tick) :
    selectEdge v t ≠ .reset ∧ selectEdge v t ≠ .detach ∧ selectEdge v t ≠ .idle := by
  obtain ⟨h, -⟩ | ⟨-, ⟨h, -⟩ | ⟨-, ⟨h, -⟩ | ⟨-, ⟨h, -⟩ | ⟨-, -, ⟨h, -⟩ | ⟨h, -⟩⟩ | ⟨-, -, ⟨h, -⟩ | ⟨h, -⟩⟩⟩⟩⟩ :=
    selectEdge_cases v t
  all_goals simp [h]

theorem primaryOf_eq_reset_iff : primaryOf v x = .reset ↔ x.rst = true := by
  obtain ⟨hreset, -, -⟩ := selectEdge_ne_hostOperation v x.edgeTick
  unfold primaryOf
  split_ifs <;> simp_all

theorem primaryOf_eq_detach_iff : primaryOf v x = .detach ↔ x.rst = false ∧ x.attach = false := by
  obtain ⟨-, hdetach, -⟩ := selectEdge_ne_hostOperation v x.edgeTick
  unfold primaryOf
  split_ifs <;> simp_all

theorem primaryOf_eq_idle_iff :
    primaryOf v x = .idle ↔ x.rst = false ∧ x.attach = true ∧ x.edgeValid = false := by
  obtain ⟨-, -, hidle⟩ := selectEdge_ne_hostOperation v x.edgeTick
  unfold primaryOf
  split_ifs <;> simp_all

theorem primaryOf_eq_selectEdge_iff : primaryOf v x = selectEdge v x.edgeTick ↔ IsEdge x := by
  obtain ⟨hreset, hdetach, hidle⟩ := selectEdge_ne_hostOperation v x.edgeTick
  refine ⟨fun h => ?_, primaryOf_edge⟩
  rw [← h, Ne, primaryOf_eq_reset_iff] at hreset
  rw [← h, Ne, primaryOf_eq_detach_iff] at hdetach
  rw [← h, Ne, primaryOf_eq_idle_iff] at hidle
  simp_all [IsEdge]

theorem interpretRow_ne_arm (u : Variant) : interpretRow u ≠ .arm := by
  cases u <;> simp [interpretRow]

theorem resultOf_eq_arm_iff : resultOf x p = some .arm ↔ x.rst = false ∧ x.arm = true := by
  have hrow := interpretRow_ne_arm x.variant
  unfold resultOf
  split_ifs <;> simp_all

/-! ### The match and mask pairs by the inputs -/

/-- `CV = {rst, attach, arm, edge_valid}` (R70). -/
theorem controlVector_eq (w : StimulusWord) :
    controlVector w = BitVec.ofNat 4 (8 * (inputsOf w).rst.toNat + 4 * (inputsOf w).attach.toNat
      + 2 * (inputsOf w).arm.toNat + (inputsOf w).edgeValid.toNat) := by
  rw [← controlVector_wordOfInputs, wordOfInputs_inputsOf, BitVec.ofNat_toNat, BitVec.setWidth_eq]

/-- R71's five match and mask pairs over the 16 values of `CV`, by its four bits. -/
theorem controlVector_matches (w : StimulusWord) :
    (controlVector w &&& 0b1000#4 = 0b1000#4 ↔ (inputsOf w).rst = true) ∧
    (controlVector w &&& 0b1100#4 = 0b0000#4 ↔ (inputsOf w).rst = false ∧ (inputsOf w).attach = false) ∧
    (controlVector w &&& 0b1101#4 = 0b0100#4 ↔
      (inputsOf w).rst = false ∧ (inputsOf w).attach = true ∧ (inputsOf w).edgeValid = false) ∧
    (controlVector w &&& 0b1101#4 = 0b0101#4 ↔ IsEdge (inputsOf w)) ∧
    (controlVector w &&& 0b1010#4 = 0b0010#4 ↔ (inputsOf w).rst = false ∧ (inputsOf w).arm = true) := by
  rw [controlVector_eq, IsEdge]
  generalize (inputsOf w).rst = rst, (inputsOf w).attach = attach, (inputsOf w).arm = arm,
    (inputsOf w).edgeValid = edgeValid
  revert rst attach arm edgeValid
  decide

/-- Settles O20: each operation and its match and mask pair ask the same of the four control inputs. -/
theorem controlVectorSelectsTheOperation : Obligations.ControlVectorSelectsTheOperation := by
  intro v w
  obtain ⟨hreset, hdetach, hidle, hedge, harm⟩ := controlVector_matches w
  exact ⟨primaryOf_eq_reset_iff.trans hreset.symm, primaryOf_eq_detach_iff.trans hdetach.symm,
    primaryOf_eq_idle_iff.trans hidle.symm, primaryOf_eq_selectEdge_iff.trans hedge.symm,
    resultOf_eq_arm_iff.trans harm.symm⟩

end Sys2Proof
end

section
/-! SUPPORT. The layout of the stimulus word (30_encoding.md R81). -/

namespace Sys2Proof

/-- An operation that presents no edge asks for tick 0. -/
theorem Instr.controls_edgeTick {i : Instr} (h : i.controls.edgeValid = false) : i.controls.edgeTick = 0#32 := by
  cases i <;> simp [Instr.controls] at h ⊢

/-- What stands on the result path does not choose the edge inputs. -/
theorem Cycle.controls_edge (c : Cycle) :
    c.controls.edgeValid = c.primary.controls.edgeValid ∧ c.controls.edgeTick = c.primary.controls.edgeTick := by
  obtain ⟨p, _ | r⟩ := c <;> exact ⟨rfl, rfl⟩

/-- R81: the word of a cycle without an edge has tick 0. -/
theorem encode_tick_of_no_edge {c : Cycle} (h : c.controls.edgeValid = false) :
    (encode c).extractLsb' 0 32 = 0#32 := by
  obtain ⟨hvalid, htick⟩ := c.controls_edge
  rw [encode, wordOfInputs_edgeTick, htick, Instr.controls_edgeTick (hvalid.symm.trans h)]

/-- Settles O22: the fields of `wordOfInputs`, its two round trips, and R81's example. -/
theorem stimulusWordLayout : Obligations.StimulusWordLayout :=
  ⟨fun x => ⟨wordOfInputs_variant x, wordOfInputs_rst x, wordOfInputs_attach x, wordOfInputs_arm x,
      wordOfInputs_edgeValid x, wordOfInputs_edgeTick x, inputsOf_wordOfInputs x⟩,
    wordOfInputs_inputsOf, fun _ => encode_tick_of_no_edge, by decide⟩

end Sys2Proof
end

section
/-! SUPPORT. The interval of an edge (40_frame_decoder.md R101) and the slot counter (R105) as integers, and the EDGE rows,
as chosen and run, against the spec's whole function `EdgeStep` (R113). -/

namespace Sys2Proof.Machine

variable {s : State} {x : Inputs} {t : Tick} {rest : List StimulusWord}

/-! ### The interval and the slot counter -/

/-- R101 on integers: the later tick minus the earlier, modulo `2^32`. -/
theorem interval_toNat_eq_emod (last tick : Tick) :
    ((interval last tick).toNat : Int) = ((tick.toNat : Int) - last.toNat) % 4294967296 := by
  have htick := tick.isLt
  have hlast := last.isLt
  rw [interval_toNat]
  omega

/-- Settles O12: both corner cases are `interval_toNat` with the reduction modulo `2^32` carried out. -/
theorem intervalWrapsModulo32 : Obligations.IntervalWrapsModulo32 := by
  intro last tick
  have htick := tick.isLt
  have hlast := last.isLt
  refine ⟨interval_toNat_eq_emod last tick, ?_, ?_⟩
  · rintro rfl
    simp [interval]
  · intro hwrapped
    rw [interval_toNat]
    omega

/-- R105: the counter incremented is `k` in 7 bits, overflow or not. -/
theorem ofInt_toInt_add_one (k : SlotCount) : BitVec.ofInt 7 (k.toInt + 1) = k + 1#7 := by
  rw [BitVec.ofInt_add, BitVec.ofInt_toInt, BitVec.ofInt_ofNat]

@[simp] theorem State.view_slot (s : State) : s.view.slot = s.bitCount.toInt + 1 := rfl

/-- An interval of at most 10000 is no start gap (R103). -/
theorem classAt_ne_gap (h : (t - s.lastEdgeTick).toNat ≤ 10000) : s.view.classAt t ≠ .gap :=
  fun hgap => absurd (intervalClass_eq_gap_iff.1 hgap) (Nat.not_le.2 (Nat.lt_succ_of_le h))

/-- R112: the 40th data bit, counted, is slot 40. -/
theorem State.countSlot_of_lastSlot (h : s.view.slot = 40) : s.countSlot = s.countLastSlot := by
  have hcount : s.bitCount + 1#7 = 40#7 := by
    rw [← ofInt_toInt_add_one, ← s.view_slot, h]
    decide
  rw [State.countSlot, State.countLastSlot]
  congr

/-! ### `EdgeStep` by the class of its interval -/

namespace Reference

/-- R107: in the classes of R73 that are no start gap, `Classify` answers that class. -/
theorem classify_toNat (iv : Tick) :
    (intervalClass iv = .bit0 → classify iv.toNat = .bit0) ∧
    (intervalClass iv = .bit1 → classify iv.toNat = .bit1) ∧
    (intervalClass iv = .bad → classify iv.toNat = .bad) := by
  rw [intervalClass_eq_bit0_iff, intervalClass_eq_bit1_iff, intervalClass_eq_bad_iff]
  unfold classify
  refine ⟨fun h => ?_, fun h => ?_, fun h => ?_⟩
  · rw [if_pos (by omega), if_neg (by omega)]
  · rw [if_pos (by omega), if_pos (by omega)]
  · rw [if_neg (by omega)]

/-- The start-gap test of `EdgeStep` is the class GAP. -/
theorem interval_gt_iff :
    ((t.toNat : Int) - s.lastEdgeTick.toNat) % 4294967296 > 10000 ↔ s.view.classAt t = .gap := by
  rw [← interval_toNat_eq_emod, View.classAt, intervalClass_eq_gap_iff, State.view_lastEdgeTick]
  omega

theorem edgeStep_of_gap (h : s.view.classAt t = .gap) :
    edgeStep t s = ((s.recordTick t).enterFrame.clearFrame, none) := by
  rw [edgeStep, if_pos (interval_gt_iff.2 h)]
  rfl

theorem edgeStep_outside_frame (h : s.view.classAt t ≠ .gap) (hf : s.inFrame = false) :
    edgeStep t s = (s.recordTick t, none) := by
  rw [edgeStep, if_neg (interval_gt_iff.not.2 h), if_neg (by simp [hf])]
  rfl

theorem edgeStep_discard_slot (h : s.view.classAt t ≠ .gap) (hf : s.inFrame = true) (hs : s.view.slot ≤ 0) :
    edgeStep t s = ((s.recordTick t).countSlot, none) := by
  rw [State.view_slot] at hs
  rw [edgeStep, if_neg (interval_gt_iff.not.2 h), if_pos hf, if_neg (by dsimp only; omega), ofInt_toInt_add_one]
  rfl

/-- A data slot whose interval carries the bit `b`: slot 40 completes the frame. -/
theorem edgeStep_data_bit (b : Bool) (h : s.view.classAt t = cond b .bit1 .bit0) (hf : s.inFrame = true)
    (hs : 1 ≤ s.view.slot) :
    edgeStep t s =
      if s.view.slot = 40 then
        (((s.recordTick t).countSlot.shiftIn b).leaveFrame, some ((s.recordTick t).countSlot.shiftIn b).accumulator)
      else ((s.recordTick t).countSlot.shiftIn b, none) := by
  obtain ⟨hbit0, hbit1, -⟩ := classify_toNat (interval s.lastEdgeTick t)
  have hgap : s.view.classAt t ≠ .gap := by cases b <;> simp [h]
  rw [State.view_slot] at hs
  rw [edgeStep, if_neg (interval_gt_iff.not.2 hgap), if_pos hf, if_pos hs, ← interval_toNat_eq_emod,
    ofInt_toInt_add_one]
  cases b with
  | false => simp [hbit0 h, State.recordTick, State.countSlot, State.shiftIn, State.leaveFrame]
  | true => simp [hbit1 h, State.recordTick, State.countSlot, State.shiftIn, State.leaveFrame]

theorem edgeStep_violation (h : s.view.classAt t = .bad) (hf : s.inFrame = true) (hs : 1 ≤ s.view.slot) :
    edgeStep t s = (((s.recordTick t).countSlot.shiftIn false).leaveFrame, none) := by
  obtain ⟨-, -, hbad⟩ := classify_toNat (interval s.lastEdgeTick t)
  have hgap : s.view.classAt t ≠ .gap := by simp [h]
  rw [State.view_slot] at hs
  rw [edgeStep, if_neg (interval_gt_iff.not.2 hgap), if_pos hf, if_pos hs, ← interval_toNat_eq_emod,
    ofInt_toInt_add_one, hbad h]
  rfl

end Reference

/-! ### The row chosen is `EdgeStep` -/

/-- R113 in a data slot whose interval carries the bit `b`. -/
theorem exec_selectEdge_data_bit (b : Bool) (h : s.view.classAt t = cond b .bit1 .bit0) (hf : s.inFrame = true)
    (hs : 1 ≤ s.view.slot) :
    ∃ u : State, exec (selectEdge s.view t) s = .next u ∧
      Reference.edgeStep t s = (u, if (selectEdge s.view t).completes then some u.accumulator else none) := by
  have hgap : s.view.classAt t ≠ .gap := by cases b <;> simp [h]
  rw [selectEdge_data_slot hgap hf hs, Reference.edgeStep_data_bit b h hf hs, h]
  by_cases hlast : s.view.slot = 40
  · have hcount : (s.recordTick t).countSlot = (s.recordTick t).countLastSlot := State.countSlot_of_lastSlot hlast
    rw [if_pos hlast, hcount, decide_eq_true hlast]
    cases b <;> exact ⟨_, rfl, rfl⟩
  · rw [if_neg hlast, decide_eq_false hlast]
    cases b <;> exact ⟨_, rfl, rfl⟩

/-- R113: the row chosen leaves the state `EdgeStep` leaves, and `EdgeStep` returns the accumulator of that state
beside a COMPLETE row and no frame beside any other. -/
theorem exec_selectEdge_eq_edgeStep (s : State) (t : Tick) :
    ∃ u : State, exec (selectEdge s.view t) s = .next u ∧
      Reference.edgeStep t s = (u, if (selectEdge s.view t).completes then some u.accumulator else none) := by
  by_cases hgap : s.view.classAt t = .gap
  · rw [selectEdge_of_gap hgap, Reference.edgeStep_of_gap hgap]
    exact ⟨_, rfl, rfl⟩
  cases hf : s.inFrame with
  | false =>
    rw [selectEdge_outside_frame hgap hf, Reference.edgeStep_outside_frame hgap hf]
    exact ⟨_, rfl, rfl⟩
  | true =>
    by_cases hdiscard : s.view.slot ≤ 0
    · rw [selectEdge_discard_slot hgap hf hdiscard, Reference.edgeStep_discard_slot hgap hf hdiscard]
      exact ⟨_, rfl, rfl⟩
    have hdata : 1 ≤ s.view.slot := by omega
    cases hclass : s.view.classAt t with
    | gap => exact absurd hclass hgap
    | bit0 => exact exec_selectEdge_data_bit false hclass hf hdata
    | bit1 => exact exec_selectEdge_data_bit true hclass hf hdata
    | bad =>
      rw [selectEdge_data_slot hgap hf hdata, Reference.edgeStep_violation hclass hf hdata, hclass]
      exact ⟨_, rfl, rfl⟩

/-- Settles O18: `exec_selectEdge_eq_edgeStep`, read for a COMPLETE row and for any other. -/
theorem edgeRowsTogetherAreEdgeStep : Obligations.EdgeRowsTogetherAreEdgeStep := by
  intro s t
  obtain ⟨u, hexec, hstep⟩ := exec_selectEdge_eq_edgeStep s t
  rw [hexec, hstep]
  cases (selectEdge s.view t).completes <;> simp

/-! ### Steps and the decoder state -/

/-- What follows the primary operation of a cycle leaves the decoder state alone (R160, R166). -/
theorem step_decoder (h : Samples s x rest) :
    ∃ u t : State, exec (primaryOf s.view x) { s with stimulus := rest, done := false } = .next u ∧
      step s = .next t ∧ SameDecoder u t := by
  obtain ⟨u, hu, -⟩ := exec_next (primaryOf s.view x) { s with stimulus := rest, done := false }
  have hrun : step s = thenExec (.next u) (resultOf x (primaryOf s.view x)) := by
    rw [step_of_samples h, ← hu]
    rfl
  refine ⟨u, ?_⟩
  rw [hu, hrun, resultOf]
  split_ifs
  · exact ⟨u, rfl, rfl, rfl, rfl, rfl, rfl⟩
  · exact ⟨_, rfl, rfl, rfl, rfl, rfl, rfl⟩
  · obtain ⟨t, ht, hsame, -⟩ := exec_interpret_decoder u x.variant
    exact ⟨t, rfl, ht, hsame⟩
  · exact ⟨u, rfl, rfl, rfl, rfl, rfl, rfl⟩

/-- A step in an EDGE cycle, armed or not, leaves the decoder state `EdgeStep` leaves. -/
theorem step_edge_decoder (hx : IsEdge x) (h : Samples s x rest) :
    ∃ t : State, step s = .next t ∧
      SameDecoder (Reference.edgeStep x.edgeTick { s with stimulus := rest, done := false }).1 t := by
  obtain ⟨u, t, hu, ht, hsame⟩ := step_edge hx h
  obtain ⟨u', hu', hstep⟩ := exec_selectEdge_eq_edgeStep { s with stimulus := rest, done := false } x.edgeTick
  cases hu.symm.trans hu'
  exact ⟨t, ht, by rwa [hstep]⟩

/-- R102 of `EdgeStep`. -/
theorem Reference.edgeStep_lastEdgeTick (t : Tick) (s : State) : (Reference.edgeStep t s).1.lastEdgeTick = t := by
  dsimp only [Reference.edgeStep]
  split_ifs with hgap hf hdata hlast
  · rfl
  · cases Reference.classify _ <;> rfl
  · cases Reference.classify _ <;> rfl
  · rfl
  · rfl

/-- R105 of `EdgeStep`: in a frame, an edge that is no start gap counts one slot. -/
theorem Reference.edgeStep_bitCount (h : s.view.classAt t ≠ .gap) (hf : s.inFrame = true) :
    (Reference.edgeStep t s).1.bitCount = BitVec.ofInt 7 (s.bitCount.toInt + 1) := by
  rw [Reference.edgeStep, if_neg (Reference.interval_gt_iff.not.2 h), if_pos hf]
  dsimp only
  split_ifs with hdata hlast
  · cases Reference.classify _ <;> rfl
  · cases Reference.classify _ <;> rfl
  · rfl

/-- Settles O14: the step leaves the decoder state `EdgeStep` leaves. -/
theorem everyEdgeRecordsItsTick : Obligations.EveryEdgeRecordsItsTick := by
  intro s x rest hx hs
  obtain ⟨t, ht, -, -, -, htick⟩ := step_edge_decoder hx hs
  exact ⟨t, ht, htick.trans (Reference.edgeStep_lastEdgeTick _ _)⟩

/-- R115: a counter of at most 39 does not overflow when a slot is counted. -/
theorem toInt_ofInt_toInt_add_one {k : SlotCount} (h : k.toInt ≤ 39) :
    (BitVec.ofInt 7 (k.toInt + 1)).toInt = k.toInt + 1 := by
  have hlo := k.le_toInt
  exact BitVec.toInt_ofInt_eq_self (by decide) (by omega) (by omega)

/-- Settles O16: `EdgeStep` counts the slot, and the invariant keeps the counter below 40. -/
theorem inFrameEdgesCountSlots : Obligations.InFrameEdgesCountSlots := by
  intro s x rest hx hs hiv hf
  obtain ⟨t, ht, -, hcount, -, -⟩ := step_edge_decoder hx hs
  replace hcount := hcount.trans (Reference.edgeStep_bitCount (classAt_ne_gap hiv) hf)
  refine ⟨t, ht, hcount, fun hinv => ?_⟩
  obtain ⟨-, hframe, -⟩ := hinv
  obtain ⟨hle, -⟩ := hframe hf
  rw [hcount, toInt_ofInt_toInt_add_one hle]
  exact ⟨rfl, by omega⟩

/-- R100: the primary operation of a cycle that is neither an EDGE cycle nor a reset is DETACH or IDLE. -/
theorem primaryOf_of_not_edge {v : View} (hx : ¬ IsEdge x) (hrst : x.rst = false) :
    primaryOf v x = if x.attach then .idle else .detach := by
  cases hattach : x.attach with
  | false => exact primaryOf_eq_detach_iff.2 ⟨hrst, hattach⟩
  | true =>
    refine primaryOf_eq_idle_iff.2 ⟨hrst, hattach, ?_⟩
    cases hvalid : x.edgeValid with
    | false => rfl
    | true => exact absurd ⟨hrst, hattach, hvalid⟩ hx

/-- Settles O15: the primary operation is an EDGE row in EDGE cycles alone, and DETACH and IDLE write of the decoder
state at most `in_frame`. -/
theorem decoderMovesOnlyOnEdges : Obligations.DecoderMovesOnlyOnEdges := by
  intro s x rest hs
  rw [decode_primary]
  refine ⟨primaryOf_eq_selectEdge_iff.symm, fun hx hrst => ?_⟩
  obtain ⟨u, t, hu, ht, hinFrame, hcount, hacc, htick⟩ := step_decoder hs
  rw [primaryOf_of_not_edge hx hrst] at hu
  refine ⟨t, ht, ?_⟩
  rw [hcount, hacc, htick, hinFrame]
  cases hattach : x.attach with
  | false | true =>
    rw [hattach] at hu
    cases hu
    exact ⟨rfl, rfl, rfl, rfl⟩

end Sys2Proof.Machine
end

section
/-! SUPPORT. The EDGE rows by themselves (40_frame_decoder.md R103 to R112): what each writes, and the unarmed EDGE cycle
whose interval and slot meet the row's condition of R72. -/

namespace Sys2Proof.Machine

variable {s : State} {x : Inputs} {rest : List StimulusWord} {i : Instr}

/-! ### The row of an EDGE cycle -/

/-- R72: an operation that asks for the edge at `t` (R71), and whose condition holds, is the row chosen. -/
theorem selectEdge_of_fits {v : View} {t : Tick}
    (hi : i.controls = { attach := true, edgeValid := true, edgeTick := t }) (hfits : i.fits v = true) : selectEdge v t = i := by
  refine (selectEdge_eq_of_fits i ?_ hfits).symm
  cases i <;> simp_all [Instr.controls]

/-- The primary operation of an EDGE cycle is the row whose condition holds. -/
theorem decode_primary_of_fits (hx : IsEdge x)
    (hi : i.controls = { attach := true, edgeValid := true, edgeTick := x.edgeTick }) (hfits : i.fits s.view = true) :
    (decode s.view (wordOfInputs x)).primary = i := by
  rw [decode_primary, primaryOf_edge hx, selectEdge_of_fits hi hfits]

/-- An unarmed EDGE cycle in which the condition of a row holds that completes no frame: the row is chosen, and the step
is that row alone. -/
theorem edge_cycle_of_fits (hx : IsEdge x) (ha : x.arm = false) (hs : Samples s x rest)
    (hi : i.controls = { attach := true, edgeValid := true, edgeTick := x.edgeTick }) (hfits : i.fits s.view = true)
    (hc : i.completes = false) :
    (decode s.view (wordOfInputs x)).primary = i ∧ step s = exec i { s with stimulus := rest, done := false } :=
  ⟨decode_primary_of_fits hx hi hfits, step_edge_alone hx ha hs (selectEdge_of_fits hi hfits) hc⟩

/-- The slots 1 to 39 by the counter before the edge (R72). -/
theorem dataSlot_bounds (hlo : 0 ≤ s.bitCount.toInt) (hhi : s.bitCount.toInt ≤ 38) :
    1 ≤ s.view.slot ∧ s.view.slot < 40 := by
  rw [State.view_slot]
  omega

/-- R72 row 1, in every view. -/
theorem selectEdge_eq_edgeStart_iff {v : View} {t : Tick} : selectEdge v t = .edgeStart t ↔ v.classAt t = .gap := by
  refine ⟨fun h => ?_, selectEdge_of_gap⟩
  obtain ⟨-, hiv⟩ | ⟨-, hrow⟩ := selectEdge_cases v t
  · exact intervalClass_eq_gap_iff.2 hiv
  · simp [h] at hrow

/-! ### The rows -/

/-- Settles O5: EDGE.START alone has the condition `iv > 10000`, in every decoder state. -/
theorem edgeStartBeginsAFrame : Obligations.EdgeStartBeginsAFrame := by
  refine fun s => ⟨fun _ => rfl, fun x rest hx ha hs => ?_⟩
  have hgap : s.view.classAt x.edgeTick = .gap ↔ 10000 < (x.edgeTick - s.lastEdgeTick).toNat :=
    intervalClass_eq_gap_iff
  rw [decode_primary, primaryOf_edge hx, selectEdge_eq_edgeStart_iff, ← hgap]
  exact ⟨Iff.rfl, fun h => step_edge_alone hx ha hs (selectEdge_of_gap h) rfl⟩

/-- Settles O6: out of a frame, an interval of at most 10000 meets the condition of EDGE.IGNORE. -/
theorem edgeOutsideAFrameIsIgnored : Obligations.EdgeOutsideAFrameIsIgnored :=
  fun _ => ⟨fun _ => rfl, fun _ _ hx ha hs hiv hf =>
    edge_cycle_of_fits hx ha hs rfl (fits_edgeIgnore_iff.2 ⟨classAt_ne_gap hiv, hf⟩) rfl⟩

/-- Settles O7: slots -1 and 0 with an interval of at most 10000 are the condition of EDGE.DISCARD. -/
theorem discardSlotsTakeAnyInterval : Obligations.DiscardSlotsTakeAnyInterval := by
  refine fun s => ⟨fun _ => rfl, fun x rest hx ha hs hiv hf hslot => ?_⟩
  have hslot' : s.view.slot = -1 ∨ s.view.slot = 0 := by rw [State.view_slot]; omega
  rw [ofInt_toInt_add_one]
  exact edge_cycle_of_fits hx ha hs rfl (fits_edgeDiscard_iff.2 ⟨classAt_ne_gap hiv, hf, hslot'⟩) rfl

/-- Settles O8: `60 ≤ iv ≤ 100` in slots 1 to 39 is the condition of EDGE.DATA0. -/
theorem shortPulseAppendsZero : Obligations.ShortPulseAppendsZero := by
  refine fun s => ⟨fun _ => rfl, fun x rest hx ha hs hshort hlong hf hlo hhi => ?_⟩
  rw [ofInt_toInt_add_one]
  exact edge_cycle_of_fits hx ha hs rfl
    (fits_edgeData0_iff.2 ⟨intervalClass_eq_bit0_iff.2 ⟨hshort, hlong⟩, hf, dataSlot_bounds hlo hhi⟩) rfl

/-- Settles O9: `101 ≤ iv ≤ 150` in slots 1 to 39 is the condition of EDGE.DATA1. -/
theorem longPulseAppendsOne : Obligations.LongPulseAppendsOne := by
  refine fun s => ⟨fun _ => rfl, fun x rest hx ha hs hshort hlong hf hlo hhi => ?_⟩
  rw [ofInt_toInt_add_one]
  exact edge_cycle_of_fits hx ha hs rfl
    (fits_edgeData1_iff.2 ⟨intervalClass_eq_bit1_iff.2 ⟨hshort, hlong⟩, hf, dataSlot_bounds hlo hhi⟩) rfl

/-- Settles O10: the BAD intervals in slots 1 to 40 are the condition of EDGE.VIOLATION. -/
theorem timingViolationAbortsTheFrame : Obligations.TimingViolationAbortsTheFrame := by
  refine fun s => ⟨fun _ => rfl, fun x rest hx ha hs hbad hf hlo hhi => ?_⟩
  have hslot : 1 ≤ s.view.slot ∧ s.view.slot ≤ 40 := by rw [State.view_slot]; omega
  rw [ofInt_toInt_add_one]
  exact edge_cycle_of_fits hx ha hs rfl
    (fits_edgeViolation_iff.2 ⟨intervalClass_eq_bad_iff.2 hbad, hf, hslot⟩) rfl

/-! ### The completion -/

theorem decode_result (s : State) (x : Inputs) :
    (decode s.view (wordOfInputs x)).result = resultOf x (primaryOf s.view x) := by
  simp [decode, decodeInputs]

/-- R169: without ARM, a completion is taken up by the INTERPRET row of the variant. -/
theorem resultOf_of_completes {p : Instr} (hrst : x.rst = false) (ha : x.arm = false) (hp : p.completes = true) :
    resultOf x p = some (interpretRow x.variant) := by
  simp [resultOf, hrst, ha, hp]

/-- Settles O11: slot 40 with a data interval is the condition of a COMPLETE row, so the primary operation completes a
frame and the result path takes it up. -/
theorem fortiethBitCompletesTheFrame : Obligations.FortiethBitCompletesTheFrame := by
  refine fun s => ⟨fun _ => ⟨rfl, rfl⟩, fun x hx hcompletes => ?_⟩
  have hprimary : (primaryOf s.view x).completes = true := primaryOf_completes_iff.2 ⟨hx, hcompletes⟩
  have ⟨hrst, _, _⟩ := hx
  obtain ⟨hf, hcount, hmin, hmax⟩ := hcompletes
  have hslot : s.view.slot = 40 := by rw [State.view_slot, hcount]; rfl
  rw [decode_result]
  refine ⟨fun hiv => ?_, fun hiv => ?_, fun ha => resultOf_of_completes hrst ha hprimary,
    fun ha => resultOf_eq_arm_iff.2 ⟨hrst, ha⟩⟩
  · exact decode_primary_of_fits hx rfl (fits_edgeComplete0_iff.2 ⟨intervalClass_eq_bit0_iff.2 ⟨hmin, hiv⟩, hf, hslot⟩)
  · exact decode_primary_of_fits hx rfl (fits_edgeComplete1_iff.2 ⟨intervalClass_eq_bit1_iff.2 ⟨hiv, hmax⟩, hf, hslot⟩)

end Sys2Proof.Machine
end

section
/-! SUPPORT. The interpreter (41_reading_interpreter.md R131 to R140): the Reading each INTERPRET row writes, by variant, and
that it is what `Interpret` of R140 gives. -/

namespace Sys2Proof.Machine

variable {f : Frame} {s : State} {d : Decoded} {r : Reading} {v : Variant}

/-! ### The decoded values as a Reading (R136, R137) -/

theorem Decoded.reading_of_valid (h : d.valid = true) : d.reading = ⟨.good, d.temp, d.hum⟩ := if_pos h

theorem Decoded.reading_of_invalid (h : ¬ d.valid = true) : d.reading = ⟨.badData, 0, 0⟩ := if_neg h

theorem Decoded.reading_good_iff : d.reading.status = .good ↔ d.valid = true := by
  by_cases h : d.valid = true
  · simp [Decoded.reading_of_valid h, h]
  · simp [Decoded.reading_of_invalid h, h]

/-- R138: the first valid decoding gives the Reading, and DHT11's BAD_DATA stands for both. -/
theorem autoReading_eq (f : Frame) :
    autoReading f = if (decodeDhtxx f).valid then (decodeDhtxx f).reading else (decodeDht11 f).reading := by
  rw [autoReading]
  split_ifs with hxx h11
  · exact (Decoded.reading_of_valid hxx).symm
  · exact (Decoded.reading_of_valid h11).symm
  · exact (Decoded.reading_of_invalid h11).symm

/-! ### The checksum (R132, R133) -/

theorem afterChecksum_of_match
    (h : (Reference.byte f 1 + Reference.byte f 2 + Reference.byte f 3 + Reference.byte f 4) % 256 = Reference.byte f 0) :
    afterChecksum f r = r :=
  if_pos ((checksumPasses_iff f).2 h)

theorem afterChecksum_of_mismatch
    (h : (Reference.byte f 1 + Reference.byte f 2 + Reference.byte f 3 + Reference.byte f 4) % 256 ≠ Reference.byte f 0) :
    afterChecksum f r = ⟨.badChecksum, 0, 0⟩ :=
  if_neg (mt (checksumPasses_iff f).1 h)

/-! ### The rows -/

/-- The Reading of a frame that passes the checksum, by variant (R136 to R139). -/
def variantReading (f : Frame) : Variant → Reading
  | .auto | .reserved => autoReading f
  | .dht11 => (decodeDht11 f).reading
  | .dhtxx => (decodeDhtxx f).reading

/-- Every INTERPRET row is the completion write (R166) of its variant's Reading. -/
theorem exec_interpretRow (s : State) (v : Variant) :
    exec (interpretRow v) s =
      .next (s.completionWrite (afterChecksum s.accumulator (variantReading s.accumulator v))) := by
  cases v <;> rfl

theorem exists_interpretRow_of_mem {i : Instr}
    (h : i ∈ [Instr.interpretAuto, .interpretDht11, .interpretDhtxx, .interpretReserved]) : ∃ v, i = interpretRow v := by
  simp only [List.mem_cons, List.not_mem_nil, or_false] at h
  obtain rfl | rfl | rfl | rfl := h
  · exact ⟨.auto, rfl⟩
  · exact ⟨.dht11, rfl⟩
  · exact ⟨.dhtxx, rfl⟩
  · exact ⟨.reserved, rfl⟩

/-- Settles O26: every row reads the checksum before anything its variant decodes. -/
theorem checksumMismatchIsBadChecksum : Obligations.ChecksumMismatchIsBadChecksum := by
  intro s i hi hsum
  obtain ⟨v, rfl⟩ := exists_interpretRow_of_mem hi
  rw [exec_interpretRow, afterChecksum_of_mismatch hsum]
  rfl

/-- Settles O29: `autoReading_eq` behind the checksum, which all three rows read alike. -/
theorem autoTriesDhtxxThenDht11 : Obligations.AutoTriesDhtxxThenDht11 := by
  intro s u w hu hw
  have hauto := exec_interpretRow s .auto
  cases (exec_interpretRow s .dhtxx).symm.trans hu
  cases (exec_interpretRow s .dht11).symm.trans hw
  simp only [interpretRow, variantReading, autoReading_eq] at hauto ⊢
  rw [hauto, State.completionWrite_resStatus]
  by_cases hpass : checksumPasses s.accumulator = true
  · simp only [afterChecksum, if_pos hpass, ne_eq, Decoded.reading_good_iff]
    exact ⟨fun h => by rw [if_pos h], fun h => by rw [if_neg h]⟩
  · simp only [afterChecksum, if_neg hpass, implies_true, and_self]

/-! ### The decoders on numbers (R134, R135) -/

theorem decodeDht11_temp (f : Frame) : (decodeDht11 f).temp = BitVec.ofNat 16 (10 * Reference.byte f 2) := by
  rw [← byte2_toNat]
  rfl

theorem decodeDht11_hum (f : Frame) : (decodeDht11 f).hum = BitVec.ofNat 16 (10 * Reference.byte f 4) := by
  rw [← byte4_toNat]
  rfl

theorem decodeDhtxx_hum (f : Frame) :
    (decodeDhtxx f).hum = BitVec.ofNat 16 (Reference.byte f 4 * 256 + Reference.byte f 3) := by
  rw [← byte4_toNat, ← byte3_toNat, ← dhtxxHumidity_toNat, BitVec.ofNat_toNat, BitVec.setWidth_eq]
  rfl

/-- What a row whose Reading is that of one decoding does with a frame that passes the checksum. -/
theorem exec_interpretRow_of_match
    (hsum : (Reference.byte s.accumulator 1 + Reference.byte s.accumulator 2 + Reference.byte s.accumulator 3
      + Reference.byte s.accumulator 4) % 256 = Reference.byte s.accumulator 0)
    (hd : variantReading s.accumulator v = d.reading) :
    (d.valid = true → exec (interpretRow v) s = .next
      { s with resStatus := .good, resTemp := d.temp, resHum := d.hum, newData := true, done := true }) ∧
    (¬ d.valid = true → exec (interpretRow v) s = .next
      { s with resStatus := .badData, resTemp := 0#16, resHum := 0#16, newData := true, done := true }) := by
  rw [exec_interpretRow, afterChecksum_of_match hsum, hd]
  refine ⟨fun h => ?_, fun h => ?_⟩
  · rw [Decoded.reading_of_valid h]
    rfl
  · rw [Decoded.reading_of_invalid h]
    rfl

/-- Settles O27: DHT11 accepts a frame exactly under R134's bounds. -/
theorem dht11ReadsWholeUnits : Obligations.Dht11ReadsWholeUnits := by
  rintro s _ _ _ _ rfl rfl rfl rfl hsum
  have hvalid := decodeDht11_valid_iff s.accumulator
  rw [byte1_toNat, byte2_toNat, byte3_toNat, byte4_toNat] at hvalid
  rw [← hvalid, ← decodeDht11_temp, ← decodeDht11_hum]
  exact exec_interpretRow_of_match (v := .dht11) hsum rfl

/-- Settles O28: DHTXX accepts a frame exactly under R135's bounds, on the signed temperature. -/
theorem dhtxxReadsSignedTenths : Obligations.DhtxxReadsSignedTenths := by
  rintro s _ _ _ _ t _ rfl rfl rfl rfl hsum ht rfl
  have htemp := dhtxxTemperature_eq s.accumulator
  rw [byte1_toNat, byte2_toNat, ← ht] at htemp
  have hvalid := decodeDhtxx_valid_iff s.accumulator
  rw [byte3_toNat, byte4_toNat, htemp] at hvalid
  rw [← hvalid, ← htemp, ← decodeDhtxx_hum]
  exact exec_interpretRow_of_match (v := .dhtxx) hsum rfl

/-! ### `Interpret` (R140) -/

/-- What the decoders of R140 give on numbers, in the widths of the result register. -/
def Decoded.ofNumbers (n : Bool × Int × Nat) : Decoded := ⟨n.1, BitVec.ofInt 16 n.2.1, BitVec.ofNat 16 n.2.2⟩

theorem Decoded.eq_ofNumbers {n : Bool × Int × Nat} (hvalid : d.valid = n.1) (htemp : d.temp = BitVec.ofInt 16 n.2.1)
    (hhum : d.hum = BitVec.ofNat 16 n.2.2) : d = .ofNumbers n := by
  rw [Decoded.ofNumbers, ← hvalid, ← htemp, ← hhum]

theorem decodeDht11_eq_ofNumbers (f : Frame) :
    decodeDht11 f = .ofNumbers
      (Reference.decodeDht11 (Reference.byte f 1) (Reference.byte f 2) (Reference.byte f 3) (Reference.byte f 4)) := by
  refine Decoded.eq_ofNumbers ?_ ?_ (decodeDht11_hum f)
  · rw [Bool.eq_iff_iff, decodeDht11_valid_iff, byte1_toNat, byte2_toNat, byte3_toNat, byte4_toNat]
    exact decide_eq_true_iff.symm
  · rw [decodeDht11_temp, ← BitVec.ofInt_natCast]
    rfl

/-- R135's temperature with the sign bit and the magnitude taken from the byte by division. -/
theorem dhtxxTemperature_eq_reference (f : Frame) :
    dhtxxTemperature f =
      (Reference.decodeDhtxx (Reference.byte f 1) (Reference.byte f 2) (Reference.byte f 3) (Reference.byte f 4)).2.1 := by
  have hsign : 128 ≤ (byte2 f).toNat ↔ (byte2 f).toNat / 128 = 1 := by have := (byte2 f).isLt; omega
  rw [dhtxxTemperature, byte2_sign, dhtxxMagnitude_toNat, ← byte1_toNat, ← byte2_toNat]
  simp only [decide_eq_true_eq, hsign]
  rfl

theorem decodeDhtxx_eq_ofNumbers (f : Frame) :
    decodeDhtxx f = .ofNumbers
      (Reference.decodeDhtxx (Reference.byte f 1) (Reference.byte f 2) (Reference.byte f 3) (Reference.byte f 4)) := by
  have htemp := dhtxxTemperature_eq_reference f
  refine Decoded.eq_ofNumbers ?_ (congrArg (BitVec.ofInt 16) htemp) (decodeDhtxx_hum f)
  rw [Bool.eq_iff_iff, decodeDhtxx_valid_iff, byte3_toNat, byte4_toNat, htemp]
  exact decide_eq_true_iff.symm

/-- `Interpret` is the checksum test before the Reading of the variant. -/
theorem interpret_eq_afterChecksum (f : Frame) (v : Variant) :
    Reference.interpret f v.code = afterChecksum f (variantReading f v) := by
  rw [Reference.interpret]
  by_cases hsum :
      (Reference.byte f 1 + Reference.byte f 2 + Reference.byte f 3 + Reference.byte f 4) % 256 = Reference.byte f 0
  · rw [if_neg (not_not.2 hsum), afterChecksum_of_match hsum]
    cases v with
    | auto | reserved =>
      rw [variantReading, autoReading_eq, decodeDhtxx_eq_ofNumbers, decodeDht11_eq_ofNumbers, ← apply_ite Decoded.reading,
        ← apply_ite Decoded.ofNumbers]
      rfl
    | dht11 =>
      rw [variantReading, decodeDht11_eq_ofNumbers]
      rfl
    | dhtxx =>
      rw [variantReading, decodeDhtxx_eq_ofNumbers]
      rfl
  · rw [if_pos hsum, afterChecksum_of_mismatch hsum]

/-- Settles O30: the Reading a row writes is the one `Interpret` gives. -/
theorem interpretRowsTogetherAreInterpret : Obligations.InterpretRowsTogetherAreInterpret := by
  intro s v
  rw [exec_interpretRow, ← interpret_eq_afterChecksum]
  rfl

end Sys2Proof.Machine
end

section
/-! SUPPORT. The cycle (42_host_operations.md R169) by its parts: what the result path does to the state the primary
operation leaves (R160, R166), the cycles without an edge (R162, R164), and the completing cycle (R112). -/

namespace Sys2Proof.Machine

variable {s t u : State} {x : Inputs} {p : Instr} {rest : List StimulusWord} {f : Frame} {completed : Option Frame}

theorem SameDecoder.symm (h : SameDecoder s u) : SameDecoder u s := by
  obtain ⟨hin, hcount, hacc, htick⟩ := h
  exact ⟨hin.symm, hcount.symm, hacc.symm, htick.symm⟩

theorem SameDecoder.trans (hsu : SameDecoder s u) (hut : SameDecoder u t) : SameDecoder s t := by
  obtain ⟨hin, hcount, hacc, htick⟩ := hsu
  obtain ⟨hin', hcount', hacc', htick'⟩ := hut
  exact ⟨hin'.trans hin, hcount'.trans hcount, hacc'.trans hacc, htick'.trans htick⟩

/-! ### The result path -/

/-- The end of R169's `Cycle` when no reset is sampled: ARM's writes, else the completion write of a completed frame. -/
def State.takeUp (x : Inputs) (completed : Option Frame) (s : State) : State :=
  if x.arm then s.startRead
  else match completed with
    | none => s
    | some f => s.completionWrite (Reference.interpret f x.variant.code)

theorem State.takeUp_armed (ha : x.arm = true) : u.takeUp x completed = u.startRead := if_pos ha

theorem State.takeUp_none (ha : x.arm = false) : u.takeUp x none = u := by
  simp [State.takeUp, ha]

theorem State.takeUp_some (ha : x.arm = false) :
    u.takeUp x (some f) = u.completionWrite (Reference.interpret f x.variant.code) := by
  simp [State.takeUp, ha]

/-- The result path leaves the decoder state alone. -/
theorem State.sameDecoder_takeUp (u : State) (x : Inputs) (completed : Option Frame) :
    SameDecoder u (u.takeUp x completed) := by
  cases ha : x.arm with
  | true => rw [State.takeUp_armed ha]; exact ⟨rfl, rfl, rfl, rfl⟩
  | false =>
    cases completed with
    | none => rw [State.takeUp_none ha]; exact ⟨rfl, rfl, rfl, rfl⟩
    | some f => rw [State.takeUp_some ha]; exact ⟨rfl, rfl, rfl, rfl⟩

/-- The result path raises `done` exactly when it takes up a completed frame without ARM. -/
theorem State.takeUp_done_iff (hdone : u.done = false) :
    (u.takeUp x completed).done = true ↔ x.arm = false ∧ completed.isSome = true := by
  cases ha : x.arm with
  | true => simp [State.takeUp_armed ha, hdone]
  | false =>
    cases completed with
    | none => simp [State.takeUp_none ha, hdone]
    | some f => simp [State.takeUp_some ha]

/-- The operation on the result path is `takeUp`, with the accumulator as the frame beside a COMPLETE row. -/
theorem thenExec_resultOf (hrst : x.rst = false) (u : State) (p : Instr) :
    thenExec (.next u) (resultOf x p) = .next (u.takeUp x (if p.completes then some u.accumulator else none)) := by
  cases ha : x.arm with
  | true =>
    rw [resultOf_eq_arm_iff.2 ⟨hrst, ha⟩, State.takeUp_armed ha]
    rfl
  | false =>
    cases hcompletes : p.completes with
    | true =>
      rw [resultOf_of_completes hrst ha hcompletes, if_pos rfl, State.takeUp_some ha, thenExec_some,
        interpretRowsTogetherAreInterpret]
      rfl
    | false =>
      have hempty : resultOf x p = none := by simp [resultOf, hrst, ha, hcompletes]
      rw [hempty, if_neg Bool.false_ne_true, State.takeUp_none ha, thenExec_none]

/-! ### The step by its primary operation -/

theorem step_of_reset (hrst : x.rst = true) (h : Samples s x rest) :
    step s = .next (State.resetAll { s with stimulus := rest }) := by
  have hprimary : primaryOf s.view x = .reset := primaryOf_eq_reset_iff.2 hrst
  rw [step_of_samples h, decodeInputs, hprimary, resultOf, if_pos hrst]
  rfl

/-- R169 when no reset is sampled: the primary operation with `done` low, then the result path. -/
theorem step_of_primary (hrst : x.rst = false) (h : Samples s x rest)
    (hu : exec (primaryOf s.view x) { s with stimulus := rest, done := false } = .next u) :
    step s = .next (u.takeUp x (if (primaryOf s.view x).completes then some u.accumulator else none)) := by
  rw [← thenExec_resultOf hrst, ← hu, step_of_samples h]
  rfl

/-- No primary operation raises `done`. -/
theorem exec_done_of_isPrimary (hp : p.isPrimary = true) (hdone : s.done = false) (hu : exec p s = .next u) :
    u.done = false := by
  cases p with
  | arm | interpretAuto | interpretDht11 | interpretDhtxx | interpretReserved => cases hp
  | reset | detach | idle | edgeStart t | edgeIgnore t | edgeDiscard t | edgeData0 t | edgeData1 t | edgeViolation t
  | edgeComplete0 t | edgeComplete1 t =>
    cases hu
    simp [hdone]

/-- `arm` takes no part in the choice of the primary operation (R71, R72). -/
@[simp] theorem primaryOf_arm {a : Bool} (v : View) : primaryOf v { x with arm := a } = primaryOf v x := rfl

/-- R71: the primary operation is the row of RESET, DETACH or IDLE or an EDGE row. -/
theorem primaryOf_isPrimary (v : View) (x : Inputs) : (primaryOf v x).isPrimary = true := by
  unfold primaryOf
  split_ifs
  · rfl
  · rfl
  · obtain ⟨h, -⟩ | ⟨-, ⟨h, -⟩ | ⟨-, ⟨h, -⟩ | ⟨-, ⟨h, -⟩ | ⟨-, -, ⟨h, -⟩ | ⟨h, -⟩⟩ | ⟨-, -, ⟨h, -⟩ | ⟨h, -⟩⟩⟩⟩⟩ :=
      selectEdge_cases v x.edgeTick
    all_goals rw [h]; rfl
  · rfl

/-- R164: a detached cycle, whether or not an edge is presented. -/
theorem step_detached (hrst : x.rst = false) (hattach : x.attach = false) (h : Samples s x rest) :
    step s = .next (State.takeUp x none { s with inFrame := false, done := false, stimulus := rest }) := by
  have hprimary : primaryOf s.view x = .detach := primaryOf_eq_detach_iff.2 ⟨hrst, hattach⟩
  rw [step_of_primary hrst h (by rw [hprimary]; rfl), hprimary]
  rfl

/-- R162: an attached cycle without an edge. -/
theorem step_idle (hrst : x.rst = false) (hattach : x.attach = true) (hvalid : x.edgeValid = false)
    (h : Samples s x rest) : step s = .next (State.takeUp x none { s with done := false, stimulus := rest }) := by
  have hprimary : primaryOf s.view x = .idle := primaryOf_eq_idle_iff.2 ⟨hrst, hattach, hvalid⟩
  rw [step_of_primary hrst h (by rw [hprimary]; rfl), hprimary]
  rfl

/-- R100: an EDGE cycle is `EdgeStep` with `done` low, then the result path on the frame it returns. -/
theorem step_edgeStep (hx : IsEdge x) (h : Samples s x rest) :
    step s = .next (State.takeUp x
      (Reference.edgeStep x.edgeTick { s with stimulus := rest, done := false }).2
      (Reference.edgeStep x.edgeTick { s with stimulus := rest, done := false }).1) := by
  have ⟨hrst, _, _⟩ := hx
  obtain ⟨u, hu, hstep⟩ := exec_selectEdge_eq_edgeStep { s with stimulus := rest, done := false } x.edgeTick
  rw [step_of_primary hrst h (by rw [primaryOf_edge hx]; exact hu), primaryOf_edge hx, hstep]
  rfl

/-! ### The statements about every cycle -/

/-- Settles O40: reset, detached, idle and EDGE cycles are the branches of `Cycle`. -/
theorem stepIsTheCycleFunction : Obligations.StepIsTheCycleFunction := by
  intro s x rest h
  cases hrst : x.rst with
  | true => rw [step_of_reset hrst h]; rfl
  | false =>
    cases hattach : x.attach with
    | false => rw [step_detached hrst hattach h]; rfl
    | true =>
      cases hvalid : x.edgeValid with
      | false => rw [step_idle hrst hattach hvalid h]; rfl
      | true => rw [step_edgeStep ⟨hrst, hattach, hvalid⟩ h]; rfl

/-- Settles O2: the result path of a detached cycle is empty or ARM. -/
theorem detachAbandonsTheFrame : Obligations.DetachAbandonsTheFrame := by
  refine fun s => ⟨rfl, fun x rest hrst hattach h => ⟨fun ha => ?_, fun ha => ?_⟩⟩
  · rw [step_detached hrst hattach h, State.takeUp_none ha]
  · rw [step_detached hrst hattach h, State.takeUp_armed ha]
    rfl

/-- Settles O3: the result path of an unarmed IDLE cycle is empty. -/
theorem idleHoldsTheDecoder : Obligations.IdleHoldsTheDecoder := by
  refine fun s => ⟨rfl, fun x rest hrst hattach hvalid ha h => ?_⟩
  rw [step_idle hrst hattach hvalid h, State.takeUp_none ha]

/-- Settles O4: `arm` takes no part in the choice of the primary operation, so both cycles leave the decoder state
of that operation. -/
theorem armStartsAFreshRead : Obligations.ArmStartsAFreshRead := by
  refine fun s => ⟨rfl, fun x rest hrst ha h => ?_⟩
  obtain ⟨u, hu, hstimulus⟩ := exec_next (primaryOf s.view x) { s with stimulus := rest, done := false }
  have hdone : u.done = false := exec_done_of_isPrimary (primaryOf_isPrimary s.view x) rfl hu
  have hunarmed : step { s with stimulus := wordOfInputs { x with arm := false } :: rest } =
      .next (u.takeUp { x with arm := false } _) :=
    step_of_primary hrst rfl (by rw [primaryOf_arm]; exact hu)
  refine ⟨_, _, step_of_primary hrst h hu, hunarmed, ?_⟩
  refine ⟨(u.sameDecoder_takeUp _ _).symm.trans (u.sameDecoder_takeUp x _), ?_⟩
  rw [State.takeUp_armed ha]
  exact ⟨rfl, rfl, rfl, rfl, hdone, hstimulus⟩

/-- Settles O39: the primary operation leaves `done` low, and the result path raises it beside a COMPLETE row without
ARM. -/
theorem doneLastsOneCycle : Obligations.DoneLastsOneCycle := by
  intro s x rest h
  cases hrst : x.rst with
  | true =>
    refine ⟨_, step_of_reset hrst h, iff_of_false (by simp) ?_⟩
    rintro ⟨⟨hrst', -, -⟩, -⟩
    simp [hrst] at hrst'
  | false =>
    obtain ⟨u, hu, -⟩ := exec_next (primaryOf s.view x) { s with stimulus := rest, done := false }
    have hdone : u.done = false := exec_done_of_isPrimary (primaryOf_isPrimary s.view x) rfl hu
    refine ⟨_, step_of_primary hrst h hu, ?_⟩
    rw [State.takeUp_done_iff hdone, Option.isSome_ite, primaryOf_completes_iff]
    tauto

/-! ### The completing cycle -/

/-- R112 at the 40th data bit: `EdgeStep` returns the frame that stands in the accumulator it leaves. -/
theorem edgeStep_of_completesAt {t : Tick} (h : CompletesAt s t)
    (hf : f = if 101 ≤ (t - s.lastEdgeTick).toNat then (s.accumulator <<< 1) ||| 1#40 else s.accumulator <<< 1) :
    Reference.edgeStep t s =
      ({ s with inFrame := false, bitCount := 40#7, accumulator := f, lastEdgeTick := t }, some f) := by
  obtain ⟨hin, hcount, hmin, hmax⟩ := h
  have hslot : s.view.slot = 40 := by rw [State.view_slot, hcount]; rfl
  have hcounted : (s.recordTick t).countSlot = (s.recordTick t).countLastSlot := State.countSlot_of_lastSlot hslot
  have hdata : 1 ≤ s.view.slot := by rw [hslot]; decide
  rw [hf]
  split_ifs with hone
  · have hclass : s.view.classAt t = .bit1 := intervalClass_eq_bit1_iff.2 ⟨hone, hmax⟩
    rw [Reference.edgeStep_data_bit true hclass hin hdata, if_pos hslot, hcounted]
    rfl
  · have hclass : s.view.classAt t = .bit0 := intervalClass_eq_bit0_iff.2 ⟨hmin, Nat.le_of_not_lt hone⟩
    rw [Reference.edgeStep_data_bit false hclass hin hdata, if_pos hslot, hcounted]
    rfl

/-- R112, R165: the completing cycle leaves the completed decoder state, and the result path takes the frame up. -/
theorem step_completing (hx : IsEdge x) (hc : CompletesAt s x.edgeTick) (h : Samples s x rest)
    (hf : f = if 101 ≤ (x.edgeTick - s.lastEdgeTick).toNat then (s.accumulator <<< 1) ||| 1#40
      else s.accumulator <<< 1) :
    step s = .next (State.takeUp x (some f)
      { s with inFrame := false, bitCount := 40#7, accumulator := f, lastEdgeTick := x.edgeTick, done := false,
               stimulus := rest }) := by
  have hc' : CompletesAt { s with stimulus := rest, done := false } x.edgeTick := hc
  rw [step_edgeStep hx h, edgeStep_of_completesAt hc' hf]

/-- Settles O37: without ARM the frame taken up is written as its Reading. -/
theorem completionWritesTheReading : Obligations.CompletionWritesTheReading := by
  intro s x rest f hx ha hc h hf
  rw [step_completing hx hc h hf, State.takeUp_some ha]
  rfl

/-- Settles O38: with ARM the frame taken up is discarded. -/
theorem armPreemptsTheCompletion : Obligations.ArmPreemptsTheCompletion := by
  intro s x rest f hx ha hc h hf
  rw [step_completing hx hc h hf, State.takeUp_armed ha]
  rfl

/-- Settles O41: the state R166 writes depends on the decoder state and the inputs alone. -/
theorem laterCompletionOverwrites : Obligations.LaterCompletionOverwrites := by
  rintro s u x rest hx ha hc ⟨hin, hcount, hacc, htick⟩ hs hu
  have hc' : CompletesAt u x.edgeTick := by rwa [CompletesAt, hin, hcount, htick]
  have hstep := completionWritesTheReading s x rest _ hx ha hc hs rfl
  have hstep' := completionWritesTheReading u x rest _ hx ha hc' hu rfl
  rw [hacc, htick] at hstep'
  exact ⟨hstep'.trans hstep.symm, _, hstep, rfl⟩

end Sys2Proof.Machine
end

section
/-! SUPPORT. The three conditions that change the decoder state and report nothing (60_exceptions.md R182): detach and
violation leave the frame, a start gap records another tick. -/

namespace Sys2Proof.Machine

variable {s t : State} {tick : Tick}

/-- R34: inside a frame the strobe is low. -/
theorem FlagInv.done_of_inFrame (h : FlagInv s) (hf : s.inFrame = true) : s.done = false := by
  obtain ⟨-, hdone⟩ := h
  refine Bool.eq_false_iff.2 fun hd => ?_
  obtain ⟨-, hout⟩ := hdone hd
  simp [hf] at hout

theorem not_sameDecoder_of_leaves_frame (hf : s.inFrame = true) (hout : t.inFrame = false) : ¬ SameDecoder s t := by
  rintro ⟨hin, -, -, -⟩
  simp [hin, hf] at hout

/-- An edge at the recorded tick ends an interval of 0, which is no start gap. -/
theorem ne_lastEdgeTick_of_gap (h : 10000 < (tick - s.lastEdgeTick).toNat) : tick ≠ s.lastEdgeTick := by
  rintro rfl
  simp at h

/-- Settles O42: the step of each condition writes the decoder state and `done`, and the invariant says that `done` was
low. -/
theorem abortsAreSilent : Obligations.AbortsAreSilent := by
  rintro s x rest ⟨hdecoder, -, hflag⟩ hf hrst ha hs habort
  have hdone : s.done = false := hflag.done_of_inFrame hf
  obtain hdetach | ⟨hx, hgap⟩ | ⟨hx, hlo, hbad⟩ := habort
  · obtain ⟨-, hcycle⟩ := detachAbandonsTheFrame s
    obtain ⟨hstep, -⟩ := hcycle x rest hrst hdetach hs
    exact ⟨_, hstep ha, not_sameDecoder_of_leaves_frame hf rfl, ⟨rfl, rfl, rfl, rfl⟩, hdone.symm⟩
  · obtain ⟨-, hcycle⟩ := edgeStartBeginsAFrame s
    obtain ⟨-, hstep⟩ := hcycle x rest hx ha hs
    refine ⟨_, hstep hgap, ?_, ⟨rfl, rfl, rfl, rfl⟩, hdone.symm⟩
    rintro ⟨-, -, -, htick⟩
    exact ne_lastEdgeTick_of_gap hgap htick
  · obtain ⟨-, hframe, -⟩ := hdecoder
    obtain ⟨hhi, -⟩ := hframe hf
    obtain ⟨-, hcycle⟩ := timingViolationAbortsTheFrame s
    obtain ⟨-, hstep⟩ := hcycle x rest hx ha hs (by omega) hf hlo hhi
    exact ⟨_, hstep, not_sameDecoder_of_leaves_frame hf rfl, ⟨rfl, rfl, rfl, rfl⟩, hdone.symm⟩

end Sys2Proof.Machine
end

section
/-! RESET (70_reset_and_hazards.md R200). -/

namespace Sys2Proof.Machine

/-- Settles O1: both clauses are `resetAll`, of the state itself and of the state with the sampled word consumed
(`step_of_reset`). -/
theorem resetWritesEveryElement : Obligations.ResetWritesEveryElement :=
  fun _ => ⟨rfl, fun _ _ hrst h => step_of_reset hrst h⟩

end Sys2Proof.Machine
end

section
/-! SUPPORT. Decode after encode (30_encoding.md R71, R72, R81): the inputs a well-formed cycle asks for select its primary
operation and its result path, the bytes of a word are read back as the word, and every word decodes to a well-formed
cycle. -/

namespace Sys2Proof
open Machine (primaryOf_edge primaryOf_isPrimary resultOf_of_completes selectEdge_of_fits)

variable {v : View} {c : Cycle} {p r : Instr} {x : Inputs}

/-! ### The bytes of a word -/

/-- The top byte of a word leaves the two bits above the word clear. -/
theorem topByte_lt (w : StimulusWord) : ((w.extractLsb' 32 6).setWidth 8).toNat < 64 := by
  rw [BitVec.toNat_setWidth_of_le (by decide)]
  exact (w.extractLsb' 32 6).isLt

/-- The bits `k` to `k + n - 1` of a word, moved back to their place. -/
theorem getLsbD_shiftLeft_extractLsb' (w : StimulusWord) (k n : Nat) {i : Nat} (hi : i < 38) :
    ((w.extractLsb' k n).setWidth 38 <<< k).getLsbD i = (decide (k ≤ i ∧ i < k + n) && w.getLsbD i) := by
  rw [BitVec.getLsbD_shiftLeft, BitVec.getLsbD_setWidth, BitVec.getLsbD_extractLsb']
  by_cases hk : k ≤ i
  · have hwidth : i - k < 38 := by omega
    have hrange : i - k < n ↔ i < k + n := by omega
    simp [hi, hk, hwidth, hrange]
  · simp [hk, Nat.lt_of_not_le hk]

/-- The five bytes of a word, put together again. -/
theorem word_of_its_bytes (w : StimulusWord) :
    ((w.extractLsb' 32 6).setWidth 8).setWidth 38 <<< 32 ||| (w.extractLsb' 24 8).setWidth 38 <<< 24
      ||| (w.extractLsb' 16 8).setWidth 38 <<< 16 ||| (w.extractLsb' 8 8).setWidth 38 <<< 8
      ||| (w.extractLsb' 0 8).setWidth 38 = w := by
  rw [BitVec.setWidth_setWidth (by decide), ← BitVec.shiftLeft_zero ((w.extractLsb' 0 8).setWidth 38)]
  apply BitVec.eq_of_getLsbD_eq
  intro i hi
  simp only [BitVec.getLsbD_or, getLsbD_shiftLeft_extractLsb' w _ _ hi, ← Bool.and_or_distrib_right, ← Bool.decide_or]
  rw [decide_eq_true (by omega), Bool.true_and]

theorem wordOfBytes_bytesOfWord (w : StimulusWord) (rest : List Byte) :
    wordOfBytes (bytesOfWord w ++ rest) = .ok (w, rest) := by
  refine (if_pos (topByte_lt w)).trans ?_
  rw [word_of_its_bytes]
  rfl

theorem decodeBytes_bytesOfWord (v : View) (w : StimulusWord) (rest : List Byte) :
    decodeBytes v (bytesOfWord w ++ rest) = .ok (decode v w, rest) := by
  rw [decodeBytes, wordOfBytes_bytesOfWord]

/-! ### The inputs of a cycle -/

/-- The result path sets `arm` and `variant`, which take no part in the choice of the primary operation (R71, R72). -/
theorem primaryOf_cycleControls (v : View) (c : Cycle) : primaryOf v c.controls = primaryOf v c.primary.controls := by
  obtain ⟨p, _ | r⟩ := c <;> rfl

/-- The inputs a primary operation asks for select it, where its row fits. -/
theorem primaryOf_controls (hp : p.isPrimary = true) (hfits : p.fits v = true) : primaryOf v p.controls = p := by
  cases p with
  | arm | interpretAuto | interpretDht11 | interpretDhtxx | interpretReserved => cases hp
  | reset | detach | idle => rfl
  | edgeStart t | edgeIgnore t | edgeDiscard t | edgeData0 t | edgeData1 t | edgeViolation t | edgeComplete0 t
  | edgeComplete1 t => exact (primaryOf_edge ⟨rfl, rfl, rfl⟩).trans (selectEdge_of_fits rfl hfits)

theorem Instr.controls_rst (p : Instr) : p.controls.rst = decide (p = .reset) := by
  cases p <;> rfl

theorem Instr.controls_arm_of_isPrimary (hp : p.isPrimary = true) : p.controls.arm = false := by
  cases p with
  | arm | interpretAuto | interpretDht11 | interpretDhtxx | interpretReserved => cases hp
  | _ => rfl

theorem Instr.controls_interpretRow (u : Variant) : (interpretRow u).controls = { variant := u } := by
  cases u <;> rfl

theorem exists_interpretRow_of_isInterpret (h : r.isInterpret = true) : ∃ u, r = interpretRow u := by
  cases r with
  | interpretAuto => exact ⟨.auto, rfl⟩
  | interpretDht11 => exact ⟨.dht11, rfl⟩
  | interpretDhtxx => exact ⟨.dhtxx, rfl⟩
  | interpretReserved => exact ⟨.reserved, rfl⟩
  | _ => cases h

theorem Instr.ne_reset_of_completes (h : p.completes = true) : p ≠ .reset := by
  rintro rfl
  cases h

/-- R169: nothing stands on the result path of an unarmed cycle that completes no frame. -/
theorem resultOf_eq_none (ha : x.arm = false) (hp : p.completes = false) : resultOf x p = none := by
  simp [resultOf, ha, hp]

/-- The inputs a cycle asks for select its result path. -/
theorem resultOf_cycleControls (hp : c.primary.isPrimary = true)
    (hresult : Cycle.resultAllowed c.primary c.result = true) : resultOf c.controls c.primary = c.result := by
  obtain ⟨p, result⟩ := c
  have hrst := p.controls_rst
  cases result with
  | none => exact resultOf_eq_none (Instr.controls_arm_of_isPrimary hp) (by simpa [Cycle.resultAllowed] using hresult)
  | some r =>
    simp only [Cycle.resultAllowed, Bool.or_eq_true, Bool.and_eq_true, Bool.not_eq_true', decide_eq_true_eq] at hresult
    obtain ⟨rfl, hreset⟩ | ⟨hinterpret, hcompletes⟩ := hresult
    · exact resultOf_eq_arm_iff.2 ⟨hrst.trans hreset, rfl⟩
    · obtain ⟨u, rfl⟩ := exists_interpretRow_of_isInterpret hinterpret
      have hcontrols := Instr.controls_interpretRow u
      have hreset : decide (p = .reset) = false := decide_eq_false (Instr.ne_reset_of_completes hcompletes)
      rw [resultOf_of_completes (x := Cycle.controls ⟨p, some (interpretRow u)⟩) (hrst.trans hreset)
        (congrArg Inputs.arm hcontrols) hcompletes]
      exact congrArg (fun y => some (interpretRow y.variant)) hcontrols

theorem decode_encode (h : c.wellFormed v = true) : decode v (encode c) = c := by
  simp only [Cycle.wellFormed, Bool.and_eq_true] at h
  obtain ⟨⟨hp, hfits⟩, hresult⟩ := h
  rw [decode, encode, inputsOf_wordOfInputs, decodeInputs, primaryOf_cycleControls, primaryOf_controls hp hfits,
    resultOf_cycleControls hp hresult]

/-- Settles O23: the inputs of a well-formed cycle select its operations, and its word stands in its bytes. -/
theorem decodeEncodeGivesTheCycleBack : Obligations.DecodeEncodeGivesTheCycleBack := by
  refine fun v c h => ⟨decode_encode h, fun rest => ?_⟩
  rw [decodeBytes_bytesOfWord, decode_encode h]

/-! ### Every word is a well-formed cycle -/

/-- R72: in the views a run can meet, the primary operation meets its row's condition. -/
theorem primaryOf_fits (hv : v.reachable = true) (x : Inputs) : (primaryOf v x).fits v = true := by
  unfold primaryOf
  split_ifs
  · rfl
  · rfl
  · exact selectEdge_fits hv
  · rfl

theorem isInterpret_interpretRow (u : Variant) : (interpretRow u).isInterpret = true := by
  cases u <;> rfl

/-- R71, R169: the result path chosen beside the primary operation is one that may stand there. -/
theorem resultAllowed_resultOf (v : View) (x : Inputs) :
    Cycle.resultAllowed (primaryOf v x) (resultOf x (primaryOf v x)) = true := by
  unfold resultOf
  split_ifs with hrst ha hcompletes
  · rw [primaryOf_eq_reset_iff.2 hrst]
    rfl
  · simp [Cycle.resultAllowed, primaryOf_eq_reset_iff, hrst]
  · simp [Cycle.resultAllowed, isInterpret_interpretRow, hcompletes]
  · simp [Cycle.resultAllowed, hcompletes]

theorem decodeInputs_wellFormed (hv : v.reachable = true) (x : Inputs) : (decodeInputs v x).wellFormed v = true := by
  simp [Cycle.wellFormed, decodeInputs, primaryOf_isPrimary, primaryOf_fits hv, resultAllowed_resultOf]

/-- Settles O24: the cycle decoded is well formed, so decode gives it back from its own encoding. -/
theorem everyWordDecodesToAWellFormedCycle : Obligations.EveryWordDecodesToAWellFormedCycle :=
  fun _ w hv => have h := decodeInputs_wellFormed hv (inputsOf w); ⟨h, decode_encode h⟩

/-! ### The rows of the opcode table -/

theorem row_selectData (lastSlot : Bool) (t : Tick) (cls : IntervalClass) :
    (selectData lastSlot t cls).row = ⟨.cv, 0b0101, 0b1101⟩ := by
  cases cls <;> cases lastSlot <;> rfl

/-- R71: the EDGE rows share one pattern and mask. -/
theorem row_selectEdge (v : View) (t : Tick) : (selectEdge v t).row = ⟨.cv, 0b0101, 0b1101⟩ := by
  unfold selectEdge
  dsimp only
  split_ifs
  · rfl
  · rfl
  · rfl
  · exact row_selectData _ _ _

/-- R71: the primary operation's row matches the inputs that select it, whatever inputs the row leaves open. -/
theorem hit_primaryOf (v : View) (x : Inputs) : (primaryOf v x).row.hit (wordOfInputs x) = true := by
  cases hrst : x.rst with
  | true =>
    rw [primaryOf_eq_reset_iff.2 hrst, Instr.row, Laws.TableRow.hit_cv, hrst]
    cases x.attach <;> cases x.arm <;> cases x.edgeValid <;> rfl
  | false =>
    cases hattach : x.attach with
    | false =>
      rw [primaryOf_eq_detach_iff.2 ⟨hrst, hattach⟩, Instr.row, Laws.TableRow.hit_cv, hrst, hattach]
      cases x.arm <;> cases x.edgeValid <;> rfl
    | true =>
      cases hvalid : x.edgeValid with
      | false =>
        rw [primaryOf_eq_idle_iff.2 ⟨hrst, hattach, hvalid⟩, Instr.row, Laws.TableRow.hit_cv, hrst, hattach, hvalid]
        cases x.arm <;> rfl
      | true =>
        rw [primaryOf_edge ⟨hrst, hattach, hvalid⟩, row_selectEdge, Laws.TableRow.hit_cv, hrst, hattach, hvalid]
        cases x.arm <;> rfl

/-- R71: ARM's row matches every armed cycle that is no reset. -/
theorem hit_arm (hrst : x.rst = false) (ha : x.arm = true) : Instr.arm.row.hit (wordOfInputs x) = true := by
  rw [Instr.row, Laws.TableRow.hit_cv, hrst, ha]
  cases x.attach <;> cases x.edgeValid <;> rfl

/-- R76: the INTERPRET row of a variant matches its code. -/
theorem hit_interpretRow (x : Inputs) : (interpretRow x.variant).row.hit (wordOfInputs x) = true := by
  cases h : x.variant <;> rw [interpretRow, Instr.row, Laws.TableRow.hit_variant, h] <;> rfl

theorem hit_resultOf (h : resultOf x p = some r) : r.row.hit (wordOfInputs x) = true := by
  unfold resultOf at h
  split_ifs at h with hrst ha hcompletes
  · cases h
    exact hit_arm (by simpa using hrst) ha
  · cases h
    exact hit_interpretRow x

/-- Settles O21: `hit_primaryOf` and `hit_resultOf` at the inputs of the word. -/
theorem decodedOperationsMatchTheirRows : Obligations.DecodedOperationsMatchTheirRows := by
  intro v w
  rw [← wordOfInputs_inputsOf w, decode, inputsOf_wordOfInputs]
  exact ⟨hit_primaryOf v _, fun _ => hit_resultOf⟩

/-- Settles O25: each word is evaluated in its decoder view. -/
theorem writtenOutWordsDecode : Obligations.WrittenOutWordsDecode := by
  unfold Obligations.WrittenOutWordsDecode
  decide

end Sys2Proof
end

section
/-! SUPPORT. What an interpretation can give (41_reading_interpreter.md R133 to R141), and the facts of its section 5 about
validity: the two decoders exclude each other, and tenths decide as exact division. -/

namespace Sys2Proof.Machine

variable {f : Frame}

/-! ### The Reading of a frame -/

theorem variantReading_eq_reading (f : Frame) (v : Variant) :
    ∃ d ∈ [decodeDhtxx f, decodeDht11 f], variantReading f v = d.reading := by
  cases v with
  | auto | reserved =>
    rw [variantReading, autoReading_eq]
    split_ifs
    · exact ⟨_, List.mem_cons_self, rfl⟩
    · exact ⟨_, List.mem_cons_of_mem _ List.mem_cons_self, rfl⟩
  | dht11 => exact ⟨_, List.mem_cons_of_mem _ List.mem_cons_self, rfl⟩
  | dhtxx => exact ⟨_, List.mem_cons_self, rfl⟩

/-- What interpreting a frame can give: BAD_CHECKSUM on a mismatch; else the values of a decoder that accepts the frame, or
BAD_DATA. -/
theorem interpretation_cases (f : Frame) (v : Variant) :
    ((Reference.byte f 1 + Reference.byte f 2 + Reference.byte f 3 + Reference.byte f 4) % 256 ≠ Reference.byte f 0 ∧
      afterChecksum f (variantReading f v) = ⟨.badChecksum, 0, 0⟩) ∨
    ((Reference.byte f 1 + Reference.byte f 2 + Reference.byte f 3 + Reference.byte f 4) % 256 = Reference.byte f 0 ∧
      (afterChecksum f (variantReading f v) = ⟨.badData, 0, 0⟩ ∨
       ∃ d ∈ [decodeDhtxx f, decodeDht11 f], d.valid = true ∧
        afterChecksum f (variantReading f v) = ⟨.good, d.temp, d.hum⟩)) := by
  by_cases hsum :
      (Reference.byte f 1 + Reference.byte f 2 + Reference.byte f 3 + Reference.byte f 4) % 256 = Reference.byte f 0
  · rw [afterChecksum_of_match hsum]
    obtain ⟨d, hd, hreading⟩ := variantReading_eq_reading f v
    rw [hreading]
    by_cases hvalid : d.valid = true
    · exact .inr ⟨hsum, .inr ⟨d, hd, hvalid, Decoded.reading_of_valid hvalid⟩⟩
    · exact .inr ⟨hsum, .inl (Decoded.reading_of_invalid hvalid)⟩
  · exact .inl ⟨hsum, afterChecksum_of_mismatch hsum⟩

/-- Settles O31: the three Readings of `interpretation_cases`, written by the row. -/
theorem interpretResultValues : Obligations.InterpretResultValues := by
  intro s i hi
  obtain ⟨v, rfl⟩ := exists_interpretRow_of_mem hi
  refine ⟨_, exec_interpretRow s v, ?_⟩
  rw [State.completionWrite_resStatus, State.completionWrite_resTemp, State.completionWrite_resHum]
  obtain ⟨-, h⟩ | ⟨-, h | ⟨d, hd, hvalid, h⟩⟩ := interpretation_cases s.accumulator v
  · simp [h]
  · simp [h]
  · rw [h]
    exact ⟨by simp, fun _ => ⟨d, hd, hvalid, rfl, rfl⟩, fun hgood => absurd rfl hgood⟩

/-- Settles O33: of the Readings of `interpretation_cases` the one on a mismatch alone has the status BAD_CHECKSUM. -/
theorem badChecksumExactlyOnMismatch : Obligations.BadChecksumExactlyOnMismatch := by
  intro s i hi
  obtain ⟨v, rfl⟩ := exists_interpretRow_of_mem hi
  refine ⟨_, exec_interpretRow s v, ?_⟩
  rw [State.completionWrite_resStatus]
  obtain ⟨hsum, h⟩ | ⟨hsum, h | ⟨d, -, -, h⟩⟩ := interpretation_cases s.accumulator v
  all_goals simp [h, hsum]

/-! ### Validity -/

/-- DHT11 asks for `b4` of at least 9, with which `{b4, b3}` is above the 1100 tenths DHTXX allows. -/
theorem decodeDhtxx_invalid_of_dht11 (h : (decodeDht11 f).valid = true) : ¬ (decodeDhtxx f).valid = true := by
  rw [decodeDht11_valid_iff] at h
  rw [decodeDhtxx_valid_iff]
  omega

/-- Settles O32: where DHT11 accepts, DHTXX does not, and where it does not, AUTO's reading is that of DHTXX or
BAD_DATA. -/
theorem noFrameIsValidUnderBothDecoders : Obligations.NoFrameIsValidUnderBothDecoders := by
  refine fun f => ⟨fun ⟨h11, hxx⟩ => decodeDhtxx_invalid_of_dht11 h11 hxx, ?_⟩
  rw [autoReading_eq]
  by_cases h11 : (decodeDht11 f).valid = true
  · rw [if_neg (decodeDhtxx_invalid_of_dht11 h11), if_pos h11]
  · rw [if_neg h11]
    split_ifs with hxx
    · rfl
    · rw [Decoded.reading_of_invalid h11, Decoded.reading_of_invalid hxx]

/-- A bound on tenths is the bound on the exact quotient by ten. -/
theorem tenths_le_iff (n b : ℤ) : n ≤ b * 10 ↔ (n : ℚ) / 10 ≤ b := by
  rw [div_le_iff₀ (by norm_num)]
  exact_mod_cast Iff.rfl

theorem le_tenths_iff (n b : ℤ) : b * 10 ≤ n ↔ (b : ℚ) ≤ (n : ℚ) / 10 := by
  rw [le_div_iff₀ (by norm_num)]
  exact_mod_cast Iff.rfl

/-- R135's temperature as the exact quotient of the signed tenths. -/
theorem dhtxxTemperature_div_ten (f : Frame) :
    (dhtxxTemperature f : ℚ) / 10 =
      if 128 ≤ Reference.byte f 2 then -((((Reference.byte f 2 - 128) * 256 + Reference.byte f 1 : Nat) : ℚ) / 10)
      else ((Reference.byte f 2 * 256 + Reference.byte f 1 : Nat) : ℚ) / 10 := by
  rw [dhtxxTemperature_eq, byte1_toNat, byte2_toNat]
  split_ifs
  · push_cast
    exact neg_div _ _
  · push_cast
    rfl

/-- Settles O34: each of the three bounds, by `tenths_le_iff` and `le_tenths_iff`. -/
theorem tenthsDecideAsExactDivision : Obligations.TenthsDecideAsExactDivision := by
  intro f h t hh ht
  have hmax := tenths_le_iff ((Reference.byte f 4 * 256 + Reference.byte f 3 : Nat) : ℤ) 110
  have tmin := le_tenths_iff (dhtxxTemperature f) (-50)
  have tmax := tenths_le_iff (dhtxxTemperature f) 135
  rw [Int.cast_natCast, ← hh] at hmax
  rw [dhtxxTemperature_div_ten, ← ht] at tmin tmax
  rw [decodeDhtxx_valid_iff, byte3_toNat, byte4_toNat]
  refine and_congr ?_ (and_congr ?_ ?_)
  · exact_mod_cast hmax
  · exact_mod_cast tmin
  · exact_mod_cast tmax

end Sys2Proof.Machine
end

section
/-! SUPPORT. Steps as wholes: the operations a word decodes to (42_host_operations.md R169), the writers of the Reading
(10_state.md section 4), the inputs a cycle without an edge ignores (30_encoding.md section 5), and the first edge after
reset. -/

namespace Sys2Proof.Machine

variable {s u : State} {x : Inputs} {p : Instr} {rest : List StimulusWord}

/-- Settles O36: `exec_next` and `step_next` without what they say of the stimulus. -/
theorem nothingEverStops : Obligations.NothingEverStops :=
  ⟨fun i s => (exec_next i s).imp fun _ h => h.1, fun s => (step_next s).imp fun _ h => h.1⟩

/-- Settles O35: `runCycle` runs the two operations one after the other, and a stopped clock holds the state. -/
theorem stepRunsTheDecodedOperations : Obligations.StepRunsTheDecodedOperations := by
  refine ⟨fun s w rest h => ?_, fun s => step_nil⟩
  obtain ⟨t, ht, -⟩ := exec_next (decode s.view w).primary { s with stimulus := rest, done := false }
  have hstep : step s = thenExec (.next t) (decode s.view w).result := by
    rw [step_cons h, ← ht]
    rfl
  refine ⟨t, ht, fun hnone => ?_, fun r hsome => ?_⟩
  · rw [hstep, hnone, thenExec_none]
  · rw [hstep, hsome, thenExec_some]

/-! ### The writers of the Reading -/

/-- Of the primary operations RESET alone writes the Reading (R103, R162, R164). -/
theorem exec_sameReading_of_isPrimary (hp : p.isPrimary = true) (hreset : p ≠ .reset) (hu : exec p s = .next u) :
    SameReading s u := by
  cases p with
  | arm | interpretAuto | interpretDht11 | interpretDhtxx | interpretReserved => cases hp
  | reset => exact absurd rfl hreset
  | detach | idle | edgeStart t | edgeIgnore t | edgeDiscard t | edgeData0 t | edgeData1 t | edgeViolation t
  | edgeComplete0 t | edgeComplete1 t =>
    cases hu
    exact ⟨rfl, rfl, rfl, rfl⟩

theorem primaryOf_ne_reset {v : View} (hrst : x.rst = false) : primaryOf v x ≠ .reset := by
  simp [primaryOf_eq_reset_iff, hrst]

/-- Settles O43: the primary operation is not RESET, and the result path is empty. -/
theorem readingHasThreeWriters : Obligations.ReadingHasThreeWriters := by
  intro s x rest hrst ha hcompletes hs
  obtain ⟨u, hu, -⟩ := exec_next (primaryOf s.view x) { s with stimulus := rest, done := false }
  refine ⟨_, step_of_primary hrst hs hu, ?_⟩
  rw [← primaryOf_completes_iff] at hcompletes
  rw [if_neg hcompletes, State.takeUp_none ha]
  have hsame := exec_sameReading_of_isPrimary (primaryOf_isPrimary s.view x) (primaryOf_ne_reset hrst) hu
  exact hsame

/-! ### The edge inputs of a cycle without an edge -/

/-- Two cycles that differ in the edge inputs alone, neither an EDGE cycle, decode to the same operations. -/
theorem decodeInputs_of_not_edge {v : View} {valid : Bool} {tick : Tick} (hx : ¬ IsEdge x)
    (hy : ¬ IsEdge { x with edgeValid := valid, edgeTick := tick }) :
    decodeInputs v { x with edgeValid := valid, edgeTick := tick } = decodeInputs v x := by
  have hprimary : primaryOf v { x with edgeValid := valid, edgeTick := tick } = primaryOf v x := by
    by_cases hrst : x.rst = true
    · rw [primaryOf_eq_reset_iff.2 hrst]
      exact primaryOf_eq_reset_iff.2 hrst
    · rw [Bool.not_eq_true] at hrst
      rw [primaryOf_of_not_edge hx hrst]
      exact primaryOf_of_not_edge hy hrst
  rw [decodeInputs, hprimary]
  rfl

theorem not_isEdge_of_reset_or_detached (h : x.rst = true ∨ x.attach = false) : ¬ IsEdge x := by
  rintro ⟨hrst, hattach, -⟩
  simp [hrst, hattach] at h

/-- Settles O45: in both clauses neither cycle is an EDGE cycle. -/
theorem tickIgnoredOutsideEdgeCycles : Obligations.TickIgnoredOutsideEdgeCycles := by
  refine fun s x tick rest hs => ⟨fun hx => ?_, fun h valid => ?_⟩
  · rw [step_presenting, decodeInputs_of_not_edge (valid := x.edgeValid) (tick := tick) hx hx, step_of_samples hs]
  · rw [step_presenting, decodeInputs_of_not_edge (valid := valid) (tick := tick) (not_isEdge_of_reset_or_detached h)
      (not_isEdge_of_reset_or_detached h), step_of_samples hs]

/-! ### The first edge after reset -/

/-- Settles O49: the last tick after reset is 0, so the interval is the tick itself. -/
theorem firstEdgeAfterReset : Obligations.FirstEdgeAfterReset := by
  intro x rest hx ha
  have hinterval : x.edgeTick - State.reset.lastEdgeTick = x.edgeTick := BitVec.sub_zero _
  refine ⟨fun hgap => ?_, fun hle => ?_⟩
  · obtain ⟨-, hcycle⟩ := edgeStartBeginsAFrame { State.reset with stimulus := wordOfInputs x :: rest }
    obtain ⟨-, hstep⟩ := hcycle x rest hx ha rfl
    exact hstep (by rwa [hinterval])
  · obtain ⟨-, hcycle⟩ := edgeOutsideAFrameIsIgnored { State.reset with stimulus := wordOfInputs x :: rest }
    obtain ⟨-, hstep⟩ := hcycle x rest hx ha rfl (by rwa [hinterval]) rfl
    exact hstep

end Sys2Proof.Machine
end

section
/-! SUPPORT. The decoder's part of the block's invariant (40_frame_decoder.md R115): a data slot shifts the accumulator
without loss, and every primary operation whose row fits keeps the counter and the accumulator in their ranges. -/

namespace Sys2Proof.Machine

variable {s u : State} {p : Instr} {tick : Tick} {k : Int}

/-! ### The accumulator -/

/-- R108 to R110: `shifted`, or `shifted | 1`, is the accumulator with one bit appended. -/
theorem shiftLeft_or_eq_shiftConcat (f : Frame) (b : Bool) :
    (if b then (f <<< 1) ||| 1#40 else f <<< 1) = f.shiftConcat b := by
  ext i hi
  rw [BitVec.getElem_shiftConcat]
  cases b with
  | false | true => by_cases h0 : i = 0 <;> simp [h0]

theorem State.shiftIn_accumulator_eq (s : State) (b : Bool) :
    (s.shiftIn b).accumulator = s.accumulator.shiftConcat b :=
  shiftLeft_or_eq_shiftConcat s.accumulator b

/-- R109, R110, R111: a data slot of `EdgeStep` appends 1 exactly for the class BIT1. -/
theorem Reference.edgeStep_accumulator (h : s.view.classAt tick ≠ .gap) (hf : s.inFrame = true)
    (hslot : 1 ≤ s.view.slot) :
    (Reference.edgeStep tick s).1.accumulator = s.accumulator.shiftConcat (decide (s.view.classAt tick = .bit1)) := by
  cases hclass : s.view.classAt tick with
  | gap => exact absurd hclass h
  | bit0 =>
    rw [Reference.edgeStep_data_bit false hclass hf hslot]
    split_ifs <;> exact State.shiftIn_accumulator_eq s false
  | bit1 =>
    rw [Reference.edgeStep_data_bit true hclass hf hslot]
    split_ifs <;> exact State.shiftIn_accumulator_eq s true
  | bad =>
    rw [Reference.edgeStep_violation hclass hf hslot]
    exact State.shiftIn_accumulator_eq s false

/-! ### The invariant by `in_frame` -/

theorem DecoderInv.of_inFrame (hf : s.inFrame = true) (hk : s.bitCount.toInt = k) (hlo : -2 ≤ k) (hhi : k ≤ 39)
    (hacc : s.accumulator.toNat < 2 ^ k.toNat) : DecoderInv s := by
  subst hk
  exact ⟨hlo, fun _ => ⟨hhi, hacc⟩, fun hout => by simp [hf] at hout⟩

theorem DecoderInv.of_outside (hf : s.inFrame = false) (hk : s.bitCount.toInt = k) (hlo : -2 ≤ k) (hhi : k ≤ 40) :
    DecoderInv s := by
  subst hk
  exact ⟨hlo, fun hin => by simp [hf] at hin, fun _ => hhi⟩

theorem DecoderInv.in_frame (h : DecoderInv s) (hf : s.inFrame = true) :
    -2 ≤ s.bitCount.toInt ∧ s.bitCount.toInt ≤ 39 ∧ s.accumulator.toNat < 2 ^ s.bitCount.toInt.toNat := by
  obtain ⟨hlo, hframe, -⟩ := h
  exact ⟨hlo, hframe hf⟩

/-- The range of the counter, in a frame or out of one. -/
theorem DecoderInv.bitCount_bounds (h : DecoderInv s) : -2 ≤ s.bitCount.toInt ∧ s.bitCount.toInt ≤ 40 := by
  cases hf : s.inFrame with
  | false =>
    obtain ⟨hlo, -, hout⟩ := h
    exact ⟨hlo, hout hf⟩
  | true =>
    obtain ⟨hlo, hhi, -⟩ := h.in_frame hf
    exact ⟨hlo, by omega⟩

/-- R105: within a frame the counter does not overflow. -/
theorem DecoderInv.countSlot_toInt (h : DecoderInv s) (hf : s.inFrame = true) :
    (s.bitCount + 1#7).toInt = s.bitCount.toInt + 1 := by
  obtain ⟨-, hhi, -⟩ := h.in_frame hf
  rw [← ofInt_toInt_add_one, toInt_ofInt_toInt_add_one hhi]

theorem DecoderInv.of_sameDecoder (h : DecoderInv s) (hsame : SameDecoder s u) : DecoderInv u := by
  obtain ⟨hin, hcount, hacc, -⟩ := hsame
  rwa [DecoderInv, hin, hcount, hacc]

/-- R115: the view of a state the invariant allows is one a run can meet. -/
theorem DecoderInv.view_reachable (h : DecoderInv s) : s.view.reachable = true := by
  cases hf : s.inFrame with
  | false => simp [View.reachable, hf]
  | true =>
    obtain ⟨hlo, hhi, -⟩ := h.in_frame hf
    have hlo' : -1 ≤ s.view.slot := by rw [State.view_slot]; omega
    have hhi' : s.view.slot ≤ 40 := by rw [State.view_slot]; omega
    simp only [View.reachable, decide_eq_true hlo', decide_eq_true hhi', Bool.and_self, Bool.or_true]

/-- Settles O17: the accumulator of `EdgeStep` as a number; under the invariant its top bit is free. -/
theorem dataSlotsShiftWithoutLoss : Obligations.DataSlotsShiftWithoutLoss := by
  intro s x rest hx hs hiv hf hcount
  obtain ⟨t, ht, -, -, hacc, -⟩ := step_edge_decoder hx hs
  have hslot : 1 ≤ s.view.slot := by rw [State.view_slot]; omega
  replace hacc : t.accumulator = s.accumulator.shiftConcat (decide (s.view.classAt x.edgeTick = .bit1)) :=
    hacc.trans (Reference.edgeStep_accumulator (classAt_ne_gap hiv) hf hslot)
  have hbit : (decide (s.view.classAt x.edgeTick = .bit1)).toNat =
      if 101 ≤ (x.edgeTick - s.lastEdgeTick).toNat ∧ (x.edgeTick - s.lastEdgeTick).toNat ≤ 150 then 1 else 0 := by
    rw [Bool.toNat, Bool.cond_decide]
    exact if_congr intervalClass_eq_bit1_iff rfl rfl
  refine ⟨t, _, ht, hbit, ?_, fun hinv => ?_⟩
  · rw [hacc, BitVec.toNat_shiftConcat, Nat.shiftLeft_eq, mul_comm, pow_one]
  · obtain ⟨-, hhi, hlt⟩ := hinv.in_frame hf
    rw [hacc, BitVec.toNat_shiftConcat_eq_of_lt (by omega) hlt, mul_comm]

/-! ### The primary operations -/

/-- A discard slot leaves the accumulator empty. -/
theorem DecoderInv.discard_slot (h : DecoderInv s) (hf : s.inFrame = true) (hslot : s.view.slot = -1 ∨ s.view.slot = 0) :
    DecoderInv (s.recordTick tick).countSlot := by
  obtain ⟨hlo, -, hacc⟩ := h.in_frame hf
  rw [State.view_slot] at hslot
  refine .of_inFrame hf (h.countSlot_toInt hf) (by omega) (by omega) ?_
  rw [Int.toNat_of_nonpos (by omega)] at hacc ⊢
  exact hacc

/-- A data slot that is not the last: the accumulator holds one bit more, and the counter counts it. -/
theorem DecoderInv.data_slot (h : DecoderInv s) (hf : s.inFrame = true) (hlo : 1 ≤ s.view.slot)
    (hhi : s.view.slot < 40) (b : Bool) : DecoderInv ((s.recordTick tick).countSlot.shiftIn b) := by
  obtain ⟨-, -, hacc⟩ := h.in_frame hf
  rw [State.view_slot] at hlo hhi
  refine .of_inFrame hf (h.countSlot_toInt hf) (by omega) (by omega) ?_
  rw [Int.toNat_add (by omega) (by decide), State.shiftIn_accumulator_eq]
  exact BitVec.toNat_shiftConcat_lt_of_lt (by omega) hacc

/-- A frame abandoned in a data slot. -/
theorem DecoderInv.violation (h : DecoderInv s) (hf : s.inFrame = true) :
    DecoderInv ((s.recordTick tick).countSlot.shiftIn false).leaveFrame := by
  obtain ⟨hlo, hhi, -⟩ := h.in_frame hf
  exact .of_outside rfl (h.countSlot_toInt hf) (by omega) (by omega)

/-- R115 is kept by a primary operation whose row fits. -/
theorem DecoderInv.exec_primary (h : DecoderInv s) (hp : p.isPrimary = true) (hfits : p.fits s.view = true)
    (hu : exec p s = .next u) : DecoderInv u := by
  cases p with
  | arm | interpretAuto | interpretDht11 | interpretDhtxx | interpretReserved => cases hp
  | reset =>
    cases hu
    exact .of_outside (k := 0) rfl rfl (by decide) (by decide)
  | detach =>
    cases hu
    obtain ⟨hlo, hhi⟩ := h.bitCount_bounds
    exact .of_outside rfl rfl hlo hhi
  | idle | edgeIgnore _ =>
    cases hu
    exact h
  | edgeStart _ =>
    cases hu
    exact .of_inFrame (k := -2) rfl rfl (by decide) (by decide) (Nat.two_pow_pos _)
  | edgeDiscard _ =>
    cases hu
    obtain ⟨-, hf, hslot⟩ := fits_edgeDiscard_iff.1 hfits
    exact h.discard_slot hf hslot
  | edgeData0 _ =>
    cases hu
    obtain ⟨-, hf, hlo, hhi⟩ := fits_edgeData0_iff.1 hfits
    exact h.data_slot hf hlo hhi false
  | edgeData1 _ =>
    cases hu
    obtain ⟨-, hf, hlo, hhi⟩ := fits_edgeData1_iff.1 hfits
    exact h.data_slot hf hlo hhi true
  | edgeViolation _ =>
    cases hu
    obtain ⟨-, hf, -⟩ := fits_edgeViolation_iff.1 hfits
    exact h.violation hf
  | edgeComplete0 _ | edgeComplete1 _ =>
    cases hu
    exact .of_outside (k := 40) rfl rfl (by decide) (by decide)

end Sys2Proof.Machine
end

section
/-! SUPPORT. The block's invariant: the ranges of the Reading (10_state.md R32, R33), the flags, and the step. -/

namespace Sys2Proof.Machine

variable {s u : State} {x : Inputs} {p : Instr} {f : Frame} {completed : Option Frame}

/-! ### The Reading -/

/-- R32, R33 under DHTXX. -/
theorem decodeDhtxx_range (h : (decodeDhtxx f).valid = true) :
    -500 ≤ (decodeDhtxx f).temp.toInt ∧ (decodeDhtxx f).temp.toInt ≤ 1350 ∧ (decodeDhtxx f).hum.toNat ≤ 1100 := by
  obtain ⟨hhum, htmin, htmax⟩ := (decodeDhtxx_valid_iff f).1 h
  have htemp : (decodeDhtxx f).temp.toInt = dhtxxTemperature f :=
    BitVec.toInt_ofInt_eq_self (by decide) (by omega) (by omega)
  exact ⟨htemp ▸ htmin, htemp ▸ htmax, (dhtxxHumidity_toNat f).trans_le hhum⟩

/-- R32, R33 under DHT11. -/
theorem decodeDht11_range (h : (decodeDht11 f).valid = true) :
    0 ≤ (decodeDht11 f).temp.toInt ∧ (decodeDht11 f).temp.toInt ≤ 600 ∧
      90 ≤ (decodeDht11 f).hum.toNat ∧ (decodeDht11 f).hum.toNat ≤ 900 := by
  obtain ⟨-, -, htmax, hhmin, hhmax⟩ := (decodeDht11_valid_iff f).1 h
  have htemp : (decodeDht11 f).temp.toInt = 10 * (byte2 f).toNat := wholeUnits_toInt _
  have hhum : (decodeDht11 f).hum.toNat = 10 * (byte4 f).toNat := wholeUnits_toNat _
  omega

theorem ReadingInv.of_sameReading (h : ReadingInv s) (hsame : SameReading s u) : ReadingInv u := by
  obtain ⟨hstatus, htemp, hhum, -⟩ := hsame
  rwa [ReadingInv, hstatus, htemp, hhum]

theorem readingInv_startRead (u : State) : ReadingInv u.startRead :=
  ⟨fun hgood => by simp at hgood, fun _ => ⟨rfl, rfl⟩⟩

theorem readingInv_completionWrite (u : State) (f : Frame) (v : Variant) :
    ReadingInv (u.completionWrite (Reference.interpret f v.code)) := by
  rw [interpret_eq_afterChecksum]
  obtain ⟨-, h⟩ | ⟨-, h | ⟨d, hd, hvalid, h⟩⟩ := interpretation_cases f v
  · rw [h]
    exact ⟨fun hgood => by simp at hgood, fun _ => ⟨rfl, rfl⟩⟩
  · rw [h]
    exact ⟨fun hgood => by simp at hgood, fun _ => ⟨rfl, rfl⟩⟩
  · rw [h]
    refine ⟨fun _ => ?_, fun hbad => absurd rfl hbad⟩
    simp only [List.mem_cons, List.not_mem_nil, or_false] at hd
    obtain rfl | rfl := hd
    · exact .inl (decodeDhtxx_range hvalid)
    · exact .inr (decodeDht11_range hvalid)

/-- R141: no interpretation gives TIMEOUT. -/
theorem interpret_status_ne_timeout (f : Frame) (v : Variant) : (Reference.interpret f v.code).status ≠ .timeout := by
  rw [interpret_eq_afterChecksum]
  obtain ⟨-, h⟩ | ⟨-, h | ⟨d, -, -, h⟩⟩ := interpretation_cases f v
  all_goals simp [h]

/-! ### The step -/

/-- R111, R112: a COMPLETE row leaves the frame. -/
theorem exec_inFrame_of_completes (hp : p.completes = true) (hu : exec p s = .next u) : u.inFrame = false := by
  cases p with
  | edgeComplete0 _ | edgeComplete1 _ =>
    cases hu
    rfl
  | _ => cases hp

/-- The result path keeps the invariant, on a state whose `done` is low and that is out of a frame beside a completion. -/
theorem blockInv_takeUp (hdecoder : DecoderInv u) (hreading : ReadingInv u)
    (hnew : u.newData = false ↔ u.resStatus = .timeout) (hdone : u.done = false)
    (hout : completed.isSome = true → u.inFrame = false) : BlockInv (u.takeUp x completed) := by
  refine ⟨hdecoder.of_sameDecoder (u.sameDecoder_takeUp x completed), ?_⟩
  cases ha : x.arm with
  | true =>
    rw [State.takeUp_armed ha]
    exact ⟨readingInv_startRead u, by simp, by simp [hdone]⟩
  | false =>
    cases completed with
    | none =>
      rw [State.takeUp_none ha]
      exact ⟨hreading, hnew, by simp [hdone]⟩
    | some f =>
      rw [State.takeUp_some ha]
      exact ⟨readingInv_completionWrite u f x.variant, by simp [interpret_status_ne_timeout],
        fun _ => ⟨rfl, hout rfl⟩⟩

/-- Settles O47: the reset values are in every range. -/
theorem resetStateMeetsInv : Obligations.ResetStateMeetsInv :=
  ⟨.of_outside (k := 0) rfl rfl (by decide) (by decide), readingInv_startRead State.reset, by decide, by decide⟩

/-- Settles O48: the primary operation keeps the decoder's part and the Reading and drops `done`, and the result path
keeps the invariant. -/
theorem everyStepKeepsInv : Obligations.EveryStepKeepsInv := by
  intro s t h ht
  cases hstimulus : s.stimulus with
  | nil =>
    cases (step_nil hstimulus).symm.trans ht
    exact h
  | cons w rest =>
    have hs := samples_of_cons hstimulus
    cases hrst : (inputsOf w).rst with
    | true =>
      cases (step_of_reset hrst hs).symm.trans ht
      exact resetStateMeetsInv
    | false =>
      obtain ⟨hdecoder, hreading, hnew, -⟩ := h
      have hpre : DecoderInv { s with stimulus := rest, done := false } := hdecoder
      obtain ⟨u, hu, -⟩ := exec_next (primaryOf s.view (inputsOf w)) { s with stimulus := rest, done := false }
      cases (step_of_primary hrst hs hu).symm.trans ht
      have hp := primaryOf_isPrimary s.view (inputsOf w)
      have hsame := exec_sameReading_of_isPrimary hp (primaryOf_ne_reset hrst) hu
      have ⟨hstatus, _, _, hnewData⟩ := hsame
      refine blockInv_takeUp ?_ (hreading.of_sameReading hsame) ?_ (exec_done_of_isPrimary hp rfl hu) fun hsome => ?_
      · exact hpre.exec_primary hp (primaryOf_fits hdecoder.view_reachable _) hu
      · rw [hstatus, hnewData]
        exact hnew
      · exact exec_inFrame_of_completes (by simpa using hsome) hu

end Sys2Proof.Machine
end

section
/-! SUPPORT. Runs without a completion: detached cycles (42_host_operations.md section 4), and the EDGE cycles a completion
needs (40_frame_decoder.md section 5). -/

namespace Sys2Proof.Machine

variable {s t u : State} {x : Inputs} {rest : List StimulusWord} {n : Nat}

/-- The stimulus a step leaves. -/
theorem step_stimulus (h : step s = .next t) : t.stimulus = s.stimulus.tail := by
  obtain ⟨t', ht', hstimulus⟩ := step_next s
  cases h.symm.trans ht'
  exact hstimulus

/-- A run that ends takes its first step to some state, and goes on from there. -/
theorem run_succ_inv (h : run (n + 1) s = .next t) : ∃ u : State, step s = .next u ∧ run n u = .next t := by
  obtain ⟨u, hu, -⟩ := step_next s
  exact ⟨u, hu, by rwa [run_succ hu] at h⟩

/-- Settles O50: the first detached cycle clears `in_frame` and `done`, and each later one finds them clear. -/
theorem detachedEdgesChangeNothing : Obligations.DetachedEdgesChangeNothing := by
  intro n
  induction n with
  | zero => exact fun s hpos => absurd hpos (Nat.lt_irrefl 0)
  | succ n ih =>
    intro s _ hlen hdetached
    cases hstimulus : s.stimulus with
    | nil => simp [hstimulus] at hlen
    | cons w rest =>
      simp only [hstimulus, List.take_succ_cons, List.forall_mem_cons] at hdetached
      obtain ⟨⟨hrst, hattach, ha⟩, hlater⟩ := hdetached
      obtain ⟨-, hcycle⟩ := detachAbandonsTheFrame s
      obtain ⟨hstep, -⟩ := hcycle _ rest hrst hattach (samples_of_cons hstimulus)
      rw [run_succ (hstep ha)]
      cases n with
      | zero => rfl
      | succ n => exact ih _ n.succ_pos (by simpa [hstimulus] using hlen) hlater

/-! ### EDGE cycles before a completion -/

/-- The word's cycle is an EDGE cycle (R100). -/
def isEdgeWord (w : StimulusWord) : Bool := !(inputsOf w).rst && (inputsOf w).attach && (inputsOf w).edgeValid

theorem isEdgeWord_iff (w : StimulusWord) : isEdgeWord w = true ↔ IsEdge (inputsOf w) := by
  simp [isEdgeWord, IsEdge, and_assoc]

/-- How many EDGE cycles must be sampled before `done` can be 1, at the least: none while it is 1, one per slot left in a
frame, and out of a frame the 43 of a whole one. Counters below -2 count as -2, where a start gap would put them. -/
def State.edgesToDone (s : State) : Nat :=
  if s.done then 0 else if s.inFrame then min 42 (40 - s.bitCount.toInt).toNat else 43

theorem State.edgesToDone_of_done (h : s.done = true) : s.edgesToDone = 0 := if_pos h

theorem State.edgesToDone_inFrame (hd : s.done = false) (hf : s.inFrame = true) :
    s.edgesToDone = min 42 (40 - s.bitCount.toInt).toNat := by
  simp [State.edgesToDone, hd, hf]

theorem State.edgesToDone_outside (hd : s.done = false) (hf : s.inFrame = false) : s.edgesToDone = 43 := by
  simp [State.edgesToDone, hd, hf]

theorem State.edgesToDone_le (s : State) : s.edgesToDone ≤ 43 := by
  unfold State.edgesToDone
  split_ifs <;> omega

theorem State.edgesToDone_le_of_sameDecoder (h : SameDecoder s u) (hu : u.done = false) :
    s.edgesToDone ≤ u.edgesToDone := by
  obtain ⟨hin, hcount, -, -⟩ := h
  cases hd : s.done with
  | true => simp [State.edgesToDone_of_done hd]
  | false => simp [State.edgesToDone, hd, hu, hin, hcount]

/-- Counting a slot, overflow or not, raises the counter by at most one. -/
theorem toInt_ofInt_toInt_add_one_le (k : SlotCount) : (BitVec.ofInt 7 (k.toInt + 1)).toInt ≤ k.toInt + 1 := by
  have hlo := k.le_toInt
  rw [BitVec.toInt_ofInt, Int.bmod_def]
  omega

/-- An edge that completes nothing brings a completion nearer by one EDGE cycle at most. -/
theorem edgesToDone_le_edgeStep {tick : Tick} (hd : s.done = false) (hsame : SameDecoder (Reference.edgeStep tick s).1 u)
    (hu : u.done = false) : s.edgesToDone ≤ u.edgesToDone + 1 := by
  obtain ⟨hin, hcount, -, -⟩ := hsame
  have hle := s.edgesToDone_le
  cases hf : u.inFrame with
  | false =>
    rw [State.edgesToDone_outside hu hf]
    omega
  | true =>
    rw [State.edgesToDone_inFrame hu hf, hcount]
    by_cases hgap : s.view.classAt tick = .gap
    · rw [Reference.edgeStep_of_gap hgap]
      exact hle
    cases hsf : s.inFrame with
    | false =>
      rw [Reference.edgeStep_outside_frame hgap hsf] at hin
      simp [hin, hsf] at hf
    | true =>
      have hcounted := toInt_ofInt_toInt_add_one_le s.bitCount
      rw [State.edgesToDone_inFrame hd hsf, Reference.edgeStep_bitCount hgap hsf]
      omega

theorem edgesToDone_of_completesAt {tick : Tick} (h : CompletesAt s tick) : s.edgesToDone ≤ 1 := by
  obtain ⟨hf, hcount, -⟩ := h
  unfold State.edgesToDone
  simp only [hf, hcount, if_true]
  split_ifs <;> decide

/-- An EDGE cycle counts for one, whether or not it completes a frame. -/
theorem edgesToDone_le_of_edge (hx : IsEdge x) (hs : Samples s x rest) (hu : step s = .next u) :
    s.edgesToDone ≤ u.edgesToDone + 1 := by
  obtain ⟨u', hu', hdone⟩ := doneLastsOneCycle s x rest hs
  cases hu.symm.trans hu'
  cases hd : u.done with
  | true =>
    obtain ⟨-, -, hcompletes⟩ := hdone.1 hd
    exact (edgesToDone_of_completesAt hcompletes).trans (Nat.le_add_left 1 _)
  | false =>
    obtain ⟨u', hu', hsame⟩ := step_edge_decoder hx hs
    cases hu.symm.trans hu'
    calc s.edgesToDone
      _ ≤ State.edgesToDone { s with stimulus := rest, done := false } :=
        State.edgesToDone_le_of_sameDecoder ⟨rfl, rfl, rfl, rfl⟩ rfl
      _ ≤ u.edgesToDone + 1 := edgesToDone_le_edgeStep rfl hsame hd

/-- Any other cycle leaves the decoder state or takes it out of the frame, and ends with `done` low. -/
theorem edgesToDone_le_of_not_edge (hx : ¬ IsEdge x) (hs : Samples s x rest) (hu : step s = .next u) :
    s.edgesToDone ≤ u.edgesToDone := by
  obtain ⟨u', hu', hdone⟩ := doneLastsOneCycle s x rest hs
  cases hu.symm.trans hu'
  have hd : u.done = false := Bool.eq_false_iff.2 fun h => hx (hdone.1 h).1
  cases hf : u.inFrame with
  | false => exact s.edgesToDone_le.trans_eq (State.edgesToDone_outside hd hf).symm
  | true =>
    cases hrst : x.rst with
    | true =>
      cases (step_of_reset hrst hs).symm.trans hu
      cases hf
    | false =>
      obtain ⟨-, hmoves⟩ := decoderMovesOnlyOnEdges s x rest hs
      obtain ⟨u', hu', hcount, hacc, htick, hin⟩ := hmoves hx hrst
      cases hu.symm.trans hu'
      rw [hf, eq_comm, Bool.and_eq_true] at hin
      obtain ⟨-, hin⟩ := hin
      exact State.edgesToDone_le_of_sameDecoder ⟨hf.trans hin.symm, hcount, hacc, htick⟩ hd

/-- Over a run, the EDGE cycles sampled make up for what `edgesToDone` falls. -/
theorem edgesToDone_le_run (h : run n s = .next t) :
    s.edgesToDone ≤ t.edgesToDone + (s.stimulus.take n).countP isEdgeWord := by
  induction n generalizing s with
  | zero =>
    cases h
    exact Nat.le_add_right _ _
  | succ n ih =>
    obtain ⟨u, hu, hrun⟩ := run_succ_inv h
    specialize ih hrun
    rw [step_stimulus hu] at ih
    cases hstimulus : s.stimulus with
    | nil =>
      cases (step_nil hstimulus).symm.trans hu
      simpa [hstimulus] using ih
    | cons w rest =>
      rw [hstimulus, List.tail_cons] at ih
      rw [List.take_succ_cons, List.countP_cons]
      have hs := samples_of_cons hstimulus
      by_cases hw : isEdgeWord w = true
      · have hstep := edgesToDone_le_of_edge ((isEdgeWord_iff w).1 hw) hs hu
        rw [if_pos hw]
        omega
      · have hstep := edgesToDone_le_of_not_edge ((isEdgeWord_iff w).not.1 hw) hs hu
        rw [if_neg hw]
        omega

/-- Settles O51: `edgesToDone` is 43 at the start of the run and 0 at its end. -/
theorem noCompletionBefore43Edges : Obligations.NoCompletionBefore43Edges := by
  intro n s t hf hd hrun hdone
  have hcount := edgesToDone_le_run hrun
  rw [State.edgesToDone_outside hd hf, State.edgesToDone_of_done hdone, Nat.zero_add, List.countP_eq_length_filter] at hcount
  exact hcount

end Sys2Proof.Machine
end

section
/-! SUPPORT. A frame on the wire (40_frame_decoder.md sections 3 and 4): what its EDGE cycles do from any state, and the
bits the accumulator then holds. -/

namespace Sys2Proof.Machine

variable {s : State} {v : Variant} {iv : Tick} {b : Bool} {bits : List Bool} {ivs : List Tick}
  {rest : List StimulusWord}

/-! ### The bits appended -/

/-- A frame with data bits appended, the first of them first. -/
def appendBits (f : Frame) (bits : List Bool) : Frame := bits.foldl BitVec.shiftConcat f

@[simp] theorem appendBits_nil (f : Frame) : appendBits f [] = f := rfl

@[simp] theorem appendBits_cons (f : Frame) (b : Bool) (bits : List Bool) :
    appendBits f (b :: bits) = appendBits (f.shiftConcat b) bits := rfl

/-- Of bits appended in reverse, bit `i` of the frame is bit `i` of the list. -/
theorem getElem?_appendBits_reverse (f : Frame) (bits : List Bool) {i : Nat} (hi : i < bits.length) (h40 : i < 40) :
    (appendBits f bits.reverse)[i]? = bits[i]? := by
  induction bits generalizing i with
  | nil => exact absurd hi (Nat.not_lt_zero i)
  | cons b bits ih =>
    rw [appendBits, List.foldl_reverse, List.foldr_cons, ← List.foldl_reverse, ← appendBits,
      BitVec.getElem?_eq_getElem h40]
    cases i with
    | zero => rw [BitVec.getElem_shiftConcat_zero, List.getElem?_cons_zero]
    | succ i =>
      rw [BitVec.getElem_shiftConcat_succ, List.getElem?_cons_succ, ← ih (Nat.lt_of_succ_lt_succ hi) (by omega),
        BitVec.getElem?_eq_getElem]

/-- 20_memory.md R52: of 40 data bits, bit `j` counted from 1 stands at bit `40 - j` of the frame. -/
theorem getElem?_appendBits (f : Frame) (h : bits.length = 40) {j : Nat} (hlo : 1 ≤ j) (hhi : j ≤ 40) :
    (appendBits f bits)[40 - j]? = bits[j - 1]? := by
  have hbit := getElem?_appendBits_reverse f bits.reverse (i := 40 - j) (by rw [List.length_reverse]; omega) (by omega)
  rw [List.reverse_reverse, List.getElem?_reverse (by omega), h] at hbit
  rw [hbit]
  congr 1
  omega

/-! ### The cycles of a frame -/

/-- The inputs of an edge on the wire: attached and not armed. -/
def wireEdge (v : Variant) (tick : Tick) : Inputs := { variant := v, attach := true, edgeValid := true, edgeTick := tick }

theorem isEdge_wireEdge (v : Variant) (tick : Tick) : IsEdge (wireEdge v tick) := ⟨rfl, rfl, rfl⟩

theorem edgeWords_cons (v : Variant) (tick iv : Tick) (ivs : List Tick) :
    edgeWords v tick (iv :: ivs) = wordOfInputs (wireEdge v (tick + iv)) :: edgeWords v (tick + iv) ivs := rfl

/-- The interval of an edge presented `iv` after the last one. -/
theorem add_sub_lastEdgeTick (s : State) (iv : Tick) : s.lastEdgeTick + iv - s.lastEdgeTick = iv :=
  add_sub_cancel_left _ _

/-- R107: an interval that carries a bit is one for which 1 is exactly the class above 100. -/
theorem Carries.bounds (h : Carries b iv) :
    60 ≤ iv.toNat ∧ iv.toNat ≤ 150 ∧ (b = true ↔ 101 ≤ iv.toNat) := by
  cases b <;> simp only [Carries, if_true, Bool.false_eq_true, if_false, false_iff, true_iff] at h ⊢ <;> omega

/-- R103 on the wire. -/
theorem step_gap (hgap : 10000 < iv.toNat) (hs : Samples s (wireEdge v (s.lastEdgeTick + iv)) rest) :
    step s = .next { s with lastEdgeTick := s.lastEdgeTick + iv, inFrame := true, bitCount := BitVec.ofInt 7 (-2),
                            accumulator := 0#40, done := false, stimulus := rest } := by
  obtain ⟨-, hcycle⟩ := edgeStartBeginsAFrame s
  obtain ⟨-, hstep⟩ := hcycle _ rest (isEdge_wireEdge _ _) rfl hs
  exact hstep (by rwa [wireEdge, add_sub_lastEdgeTick])

/-- R106 on the wire. -/
theorem step_discard (hiv : iv.toNat ≤ 10000) (hf : s.inFrame = true)
    (hcount : s.bitCount.toInt = -2 ∨ s.bitCount.toInt = -1)
    (hs : Samples s (wireEdge v (s.lastEdgeTick + iv)) rest) :
    step s = .next { s with lastEdgeTick := s.lastEdgeTick + iv, bitCount := BitVec.ofInt 7 (s.bitCount.toInt + 1),
                            done := false, stimulus := rest } := by
  obtain ⟨-, hcycle⟩ := discardSlotsTakeAnyInterval s
  obtain ⟨-, hstep⟩ := hcycle _ rest (isEdge_wireEdge _ _) rfl hs (by rwa [wireEdge, add_sub_lastEdgeTick]) hf hcount
  exact hstep

/-- R109 and R110 on the wire: the data bit an interval carries is appended. -/
theorem step_dataBit (hiv : Carries b iv) (hf : s.inFrame = true) (hlo : 0 ≤ s.bitCount.toInt)
    (hhi : s.bitCount.toInt ≤ 38) (hs : Samples s (wireEdge v (s.lastEdgeTick + iv)) rest) :
    step s = .next { s with lastEdgeTick := s.lastEdgeTick + iv, bitCount := BitVec.ofInt 7 (s.bitCount.toInt + 1),
                            accumulator := s.accumulator.shiftConcat b, done := false, stimulus := rest } := by
  have hinterval : (wireEdge v (s.lastEdgeTick + iv)).edgeTick - s.lastEdgeTick = iv := add_sub_lastEdgeTick s iv
  rw [← shiftLeft_or_eq_shiftConcat]
  cases b with
  | false =>
    obtain ⟨-, hcycle⟩ := shortPulseAppendsZero s
    obtain ⟨hmin, hmax⟩ : 60 ≤ iv.toNat ∧ iv.toNat ≤ 100 := hiv
    obtain ⟨-, hstep⟩ := hcycle _ rest (isEdge_wireEdge _ _) rfl hs (by rwa [hinterval]) (by rwa [hinterval]) hf hlo hhi
    exact hstep
  | true =>
    obtain ⟨-, hcycle⟩ := longPulseAppendsOne s
    obtain ⟨hmin, hmax⟩ : 101 ≤ iv.toNat ∧ iv.toNat ≤ 150 := hiv
    obtain ⟨-, hstep⟩ := hcycle _ rest (isEdge_wireEdge _ _) rfl hs (by rwa [hinterval]) (by rwa [hinterval]) hf hlo hhi
    exact hstep

/-- The state after a frame `f` has completed at `tick` (R112, R166). -/
def State.delivered (v : Variant) (f : Frame) (tick : Tick) (rest : List StimulusWord) : State where
  inFrame := false
  bitCount := 40#7
  accumulator := f
  lastEdgeTick := tick
  resStatus := (Reference.interpret f v.code).status
  resTemp := (Reference.interpret f v.code).temp
  resHum := (Reference.interpret f v.code).hum
  newData := true
  done := true
  stimulus := rest

/-- R112 and R166 on the wire: the 40th data bit completes the frame. -/
theorem step_lastBit (hiv : Carries b iv) (hf : s.inFrame = true) (hcount : s.bitCount.toInt = 39)
    (hs : Samples s (wireEdge v (s.lastEdgeTick + iv)) rest) :
    step s = .next (.delivered v (s.accumulator.shiftConcat b) (s.lastEdgeTick + iv) rest) := by
  have hinterval : (wireEdge v (s.lastEdgeTick + iv)).edgeTick - s.lastEdgeTick = iv := add_sub_lastEdgeTick s iv
  obtain ⟨hmin, hmax, hone⟩ := hiv.bounds
  refine completionWritesTheReading s _ rest _ (isEdge_wireEdge _ _) rfl ⟨hf, hcount, ?_, ?_⟩ hs ?_
  · rwa [hinterval]
  · rwa [hinterval]
  · rw [← shiftLeft_or_eq_shiftConcat, hinterval]
    exact if_congr hone rfl rfl

/-- The data bits left in a frame, at least one, complete it and stand in the accumulator. -/
theorem run_dataBits {k : Int} (hcarries : List.Forall₂ Carries bits ivs) (hf : s.inFrame = true)
    (hk : s.bitCount.toInt = k) (hlo : 0 ≤ k) (hhi : k ≤ 39) (hlen : k + bits.length = 40)
    (hs : s.stimulus = edgeWords v s.lastEdgeTick ivs ++ rest) :
    run bits.length s = .next (.delivered v (appendBits s.accumulator bits) (s.lastEdgeTick + ivs.sum) rest) := by
  induction hcarries generalizing s k with
  | nil =>
    rw [List.length_nil] at hlen
    omega
  | @cons b iv bits ivs hiv hcarries ih =>
    rw [edgeWords_cons, List.cons_append] at hs
    rw [List.length_cons] at hlen ⊢
    rw [appendBits_cons, List.sum_cons, ← add_assoc]
    by_cases hlast : k = 39
    · obtain rfl : bits = [] := List.eq_nil_of_length_eq_zero (by omega)
      cases hcarries
      rw [run_succ (step_lastBit hiv hf (hk.trans hlast) hs), List.sum_nil, add_zero]
      rfl
    · rw [run_succ (step_dataBit hiv hf (by omega) (by omega) hs)]
      have hcount : (BitVec.ofInt 7 (s.bitCount.toInt + 1)).toInt = k + 1 := by
        rw [toInt_ofInt_toInt_add_one (by omega), hk]
      exact ih hf hcount (by omega) (by omega) (by omega) rfl

/-- From any state a whole frame on the wire completes, one step an edge. -/
theorem run_frame {gap d1 d2 : Tick} (hgap : 10000 < gap.toNat) (hd1 : d1.toNat ≤ 10000) (hd2 : d2.toNat ≤ 10000)
    (hlen : bits.length = 40) (hcarries : List.Forall₂ Carries bits ivs)
    (hs : s.stimulus = edgeWords v s.lastEdgeTick (gap :: d1 :: d2 :: ivs) ++ rest) :
    run (bits.length + 3) s = .next
      (.delivered v (appendBits 0#40 bits) (s.lastEdgeTick + (gap :: d1 :: d2 :: ivs).sum) rest) := by
  simp only [List.sum_cons, ← add_assoc]
  rw [run_succ (step_gap hgap hs)]
  -- The premises written with `by` wait until the state before the step is known.
  refine Eq.trans (run_succ (step_discard (v := v) hd1 rfl (by exact .inl rfl) (by rfl)) _) ?_
  refine Eq.trans (run_succ (step_discard (v := v) hd2 rfl (by exact .inr rfl) (by rfl)) _) ?_
  exact run_dataBits hcarries rfl (k := 0) rfl (by decide) (by decide) (by rw [hlen]; rfl) rfl

/-- Settles O52: `run_frame`, and the bits of the accumulator it leaves. -/
theorem frameOnTheWireIsDelivered : Obligations.FrameOnTheWireIsDelivered := by
  intro s v gap d1 d2 bits ivs rest hgap hd1 hd2 hlen hcarries hs
  have hrun := run_frame hgap hd1 hd2 hlen hcarries hs
  rw [hlen] at hrun
  exact ⟨_, hrun, rfl, rfl, fun j => getElem?_appendBits 0#40 hlen, rfl, rfl, rfl, rfl, rfl, rfl, rfl⟩

end Sys2Proof.Machine
end

section
/-! SUPPORT. Ticks moved by one amount (40_frame_decoder.md section 5): intervals do not change, so `EdgeStep`, the result
path and the step do the same and leave moved ticks. -/

namespace Sys2Proof.Machine

variable {s : State} {x : Inputs} {rest : List StimulusWord} {tick d : Tick}

/-- R101: the interval between two moved ticks is the interval between the ticks. -/
theorem classAt_shiftTicks (d : Tick) (s : State) (tick : Tick) :
    (shiftTicks d s).view.classAt (tick + d) = s.view.classAt tick :=
  congrArg intervalClass (add_sub_add_right_eq_sub tick s.lastEdgeTick d)

/-- R113 with moved ticks, in a data slot whose interval carries the bit `b`. -/
theorem edgeStep_shiftTicks_data_bit (b : Bool) (h : s.view.classAt tick = cond b .bit1 .bit0) (hf : s.inFrame = true)
    (hslot : 1 ≤ s.view.slot) :
    Reference.edgeStep (tick + d) (shiftTicks d s) =
      (shiftTicks d (Reference.edgeStep tick s).1, (Reference.edgeStep tick s).2) := by
  have hview : (shiftTicks d s).view.slot = s.view.slot := rfl
  rw [Reference.edgeStep_data_bit b h hf hslot,
    Reference.edgeStep_data_bit b ((classAt_shiftTicks d s tick).trans h) hf hslot, hview]
  split_ifs <;> rfl

/-- R113 with moved ticks. -/
theorem edgeStep_shiftTicks (d : Tick) (s : State) (tick : Tick) :
    Reference.edgeStep (tick + d) (shiftTicks d s) =
      (shiftTicks d (Reference.edgeStep tick s).1, (Reference.edgeStep tick s).2) := by
  have hclass := classAt_shiftTicks d s tick
  by_cases hgap : s.view.classAt tick = .gap
  · rw [Reference.edgeStep_of_gap hgap, Reference.edgeStep_of_gap (hclass.trans hgap)]
    rfl
  have hgap' : (shiftTicks d s).view.classAt (tick + d) ≠ .gap := hclass ▸ hgap
  cases hf : s.inFrame with
  | false =>
    rw [Reference.edgeStep_outside_frame hgap hf, Reference.edgeStep_outside_frame hgap' hf]
    rfl
  | true =>
    by_cases hdiscard : s.view.slot ≤ 0
    · rw [Reference.edgeStep_discard_slot hgap hf hdiscard, Reference.edgeStep_discard_slot hgap' hf hdiscard]
      rfl
    have hdata : 1 ≤ s.view.slot := by omega
    cases hc : s.view.classAt tick with
    | gap => exact absurd hc hgap
    | bit0 => exact edgeStep_shiftTicks_data_bit false hc hf hdata
    | bit1 => exact edgeStep_shiftTicks_data_bit true hc hf hdata
    | bad =>
      rw [Reference.edgeStep_violation hc hf hdata, Reference.edgeStep_violation (hclass.trans hc) hf hdata]
      rfl

/-- The inputs of a cycle with the tick moved. -/
def shiftInputs (d : Tick) (x : Inputs) : Inputs := { x with edgeTick := x.edgeTick + d }

theorem samples_shiftTicks (hs : Samples s x rest) :
    Samples (shiftTicks d s) (shiftInputs d x) (rest.map (shiftWord d)) := by
  rw [Samples, shiftTicks, hs, List.map_cons, shiftWord, inputsOf_wordOfInputs, shiftInputs]

/-- The result path reads and writes no tick. -/
theorem takeUp_shiftTicks (d : Tick) (u : State) (x : Inputs) (completed : Option Frame) :
    (shiftTicks d u).takeUp (shiftInputs d x) completed = shiftTicks d (u.takeUp x completed) := by
  cases ha : x.arm with
  | true =>
    rw [State.takeUp_armed ha, State.takeUp_armed (x := shiftInputs d x) ha]
    rfl
  | false =>
    cases completed with
    | none => rw [State.takeUp_none ha, State.takeUp_none (x := shiftInputs d x) ha]
    | some f =>
      rw [State.takeUp_some ha, State.takeUp_some (x := shiftInputs d x) ha]
      rfl

/-- A cycle without a reset does the same with moved ticks. -/
theorem step_shiftTicks (hrst : x.rst = false) (hs : Samples s x rest) :
    step (shiftTicks d s) = mapNext (shiftTicks d) (step s) := by
  have hs' : Samples (shiftTicks d s) (shiftInputs d x) (rest.map (shiftWord d)) := samples_shiftTicks hs
  cases hattach : x.attach with
  | false =>
    rw [step_detached hrst hattach hs, step_detached (x := shiftInputs d x) hrst hattach hs', mapNext,
      ← takeUp_shiftTicks]
    rfl
  | true =>
    cases hvalid : x.edgeValid with
    | false =>
      rw [step_idle hrst hattach hvalid hs, step_idle (x := shiftInputs d x) hrst hattach hvalid hs', mapNext,
        ← takeUp_shiftTicks]
      rfl
    | true =>
      have hx : IsEdge x := ⟨hrst, hattach, hvalid⟩
      have hedge : Reference.edgeStep (shiftInputs d x).edgeTick
          { shiftTicks d s with stimulus := rest.map (shiftWord d), done := false } = _ :=
        edgeStep_shiftTicks d { s with stimulus := rest, done := false } x.edgeTick
      rw [step_edgeStep hx hs, step_edgeStep (x := shiftInputs d x) hx hs', hedge, mapNext, takeUp_shiftTicks]

/-- Settles O53: `step_shiftTicks` for each step of the run; a stopped clock holds the moved state too. -/
theorem decodingIsTransparentToTickWrap : Obligations.DecodingIsTransparentToTickWrap := by
  intro n d
  induction n with
  | zero => exact fun _ _ => rfl
  | succ n ih =>
    intro s hreset
    obtain ⟨u, hu, htail⟩ := step_next s
    have hstep : step (shiftTicks d s) = .next (shiftTicks d u) := by
      cases hstimulus : s.stimulus with
      | nil =>
        cases (step_nil hstimulus).symm.trans hu
        exact step_nil (by rw [shiftTicks, hstimulus, List.map_nil])
      | cons w rest =>
        rw [step_shiftTicks (hreset w (by simp [hstimulus])) (samples_of_cons hstimulus), hu]
        rfl
    rw [run_succ hstep, run_succ hu]
    refine ih u fun w hw => hreset w ?_
    rw [htail, ← List.drop_one, List.take_drop] at hw
    rw [Nat.add_comm]
    exact List.mem_of_mem_drop hw

end Sys2Proof.Machine
end

section
/-! SUPPORT. The pseudo-statement `FRAME` (30_encoding.md R83) as edges on the wire. -/

namespace Sys2Proof.Machine

theorem emitStmts_cons_words (l : Levels) (stmt : Stmt) (stmts : List Stmt) :
    (emitStmts l (stmt :: stmts)).2 = (emitStmt l stmt).2 ++ (emitStmts (emitStmt l stmt).1 stmts).2 := rfl

/-- While attached, gaps are edges one a cycle, each its interval after the one before. -/
theorem emitStmts_gaps (ivs : List Tick) (l : Levels) (tick : Tick) (hattach : l.attach = true) :
    (emitStmts l (gaps tick ivs)).2 = edgeWords l.variant tick ivs := by
  induction ivs generalizing l tick with
  | nil => rfl
  | cons iv ivs ih =>
    rw [gaps, emitStmts_cons_words]
    dsimp only [emitStmt]
    rw [ih { l with tick := tick + iv } _ hattach, hattach]
    rfl

/-- An edge at `tick` is a gap from the last tick. -/
theorem edge_eq_gap (last tick : Tick) (ivs : List Tick) :
    .edge tick :: gaps tick ivs = gaps last ((tick - last) :: ivs) := by
  rw [gaps, add_sub_cancel]

/-- R83: the nominal interval of a bit carries it. -/
theorem carries_nominalInterval (b : Bool) : Carries b (nominalInterval b) := by
  cases b <;> simp [Carries, nominalInterval]

/-- Settles O54: `FRAME` expands to gaps, and the nominal intervals carry the bits. -/
theorem frameStatementIsAFrameOnTheWire : Obligations.FrameStatementIsAFrameOnTheWire := by
  intro l tick w hattach
  refine ⟨bitIntervals w, ?_, by simp [bitIntervals, frameBitsOf], ?_⟩
  · rw [assembleFrom, expand, edge_eq_gap l.tick]
    simp only [assembleFrom, List.append_nil]
    exact emitStmts_gaps _ l l.tick hattach
  · rw [bitIntervals, List.forall₂_map_right_iff]
    exact List.forall₂_same.2 fun b _ => carries_nominalInterval b

end Sys2Proof.Machine
end
